-- ==== Sys2Proof/Word.lean ====
section
/-! DEFINITION. The value types of the CORE: its words (spec 00_scope.md R8, R10, R12) and the legal CRC widths. -/

namespace Sys2Proof

/-- An unsigned 32-bit value, `u32` (R12). -/
abbrev Word := BitVec 32

/-- An unsigned 8-bit value, `u8` (R12). -/
abbrev Byte := BitVec 8

/-- A request word: `REQ_BITS` = 42 (R10, R71). -/
abbrev ReqWord := BitVec 42

/-- A response word: `RSP_BITS` = 34 (R10, R78). -/
abbrev RspWord := BitVec 34

/-- The legal CRC widths, `WIDTHS` = 8, 16, 24, 32 (R8, R120). -/
inductive Width where
  | w8
  | w16
  | w24
  | w32
  deriving DecidableEq, Repr

/-- The width as a number of bits (R8). -/
def Width.bits : Width → Nat
  | .w8 => 8
  | .w16 => 16
  | .w24 => 24
  | .w32 => 32

end Sys2Proof
end

