-- ==== Sys2Proof/Syntax.lean ====
section
/-! DEFINITION. The operations of the CORE: one constructor per row of spec/opcode_table.json (30_encoding.md R72). -/

namespace Sys2Proof

/-- An operation of the CORE. Ignored request bits (R77) are no part of it. -/
inductive Instr where
  /-- REV.8 (R106) -/
  | rev8 (value : Word)
  /-- REV.16 (R107) -/
  | rev16 (value : Word)
  /-- REV.24 (R108) -/
  | rev24 (value : Word)
  /-- REV.32 (R109) -/
  | rev32 (value : Word)
  /-- START.8 (R132) -/
  | start8 (iv : Word)
  /-- START.16 (R133) -/
  | start16 (iv : Word)
  /-- START.24 (R134) -/
  | start24 (iv : Word)
  /-- START.32 (R135) -/
  | start32 (iv : Word)
  /-- BYTE (R137) -/
  | byte (b : Byte)
  /-- READ (R139) -/
  | read
  /-- REV.x<n>, REV at an illegal width (R110); `width` is the `width` field (R74) -/
  | revX (width : BitVec 8) (value : Word)
  /-- START.x<n>, START at an illegal width (R136) -/
  | startX (width : BitVec 8) (iv : Word)
  deriving DecidableEq, Repr

/-- The row's mnemonic, as spec/opcode_table.json spells it. -/
def Instr.mnemonic : Instr → String
  | .rev8 _ => "REV.8"
  | .rev16 _ => "REV.16"
  | .rev24 _ => "REV.24"
  | .rev32 _ => "REV.32"
  | .start8 _ => "START.8"
  | .start16 _ => "START.16"
  | .start24 _ => "START.24"
  | .start32 _ => "START.32"
  | .byte _ => "BYTE"
  | .read => "READ"
  | .revX _ _ => "REV.x<n>"
  | .startX _ _ => "START.x<n>"

end Sys2Proof
end

