-- ==== Sys2Proof/WellFormed.lean ====
section
/-! DEFINITION. Which terms of `Instr` are operations: an illegal-width form carries an illegal width
(spec 30_encoding.md R74, R76). -/

namespace Sys2Proof

/-- The four legal values of the `width` field (R74). -/
def legalWidthField (n : BitVec 8) : Bool :=
  n == 0x08#8 || n == 0x10#8 || n == 0x18#8 || n == 0x20#8

/-- Well-formed: the forms REV.x<n> and START.x<n> stand for the 252 other values of the field only (R76, R82). -/
def Instr.wellFormed : Instr → Bool
  | .rev8 _ => true
  | .rev16 _ => true
  | .rev24 _ => true
  | .rev32 _ => true
  | .start8 _ => true
  | .start16 _ => true
  | .start24 _ => true
  | .start32 _ => true
  | .byte _ => true
  | .read => true
  | .revX n _ => !legalWidthField n
  | .startX n _ => !legalWidthField n

end Sys2Proof
end

