-- ==== Sys2Proof/Decode.lean ====
section
/-! DEFINITION. The decoder (spec 30_encoding.md R84), the opcode table as data, and the encoder (R71, R72, R82). -/

namespace Sys2Proof

/-- `req.op` = `req[41:40]` (R71). -/
def reqOp (w : ReqWord) : BitVec 2 := w.extractLsb' 40 2

/-- `req.width` = `req[39:32]` (R71). -/
def reqWidth (w : ReqWord) : BitVec 8 := w.extractLsb' 32 8

/-- `req.data` = `req[31:0]` (R71). -/
def reqData (w : ReqWord) : Word := w.extractLsb' 0 32

/-- The operand of BYTE, `req.data[7:0]` (R73, R75). -/
def reqByte (w : ReqWord) : Byte := (reqData w).extractLsb' 0 8

/-- The width a legal `width` field selects; none for the 252 illegal values (R74, R76). -/
def widthOfField (n : BitVec 8) : Option Width :=
  if n = 0x08#8 then some .w8
  else if n = 0x10#8 then some .w16
  else if n = 0x18#8 then some .w24
  else if n = 0x20#8 then some .w32
  else none

/-- REV with `width` field `n` (R72): a legal form, or REV.x<n>. -/
def revInstr (n : BitVec 8) (value : Word) : Instr :=
  match widthOfField n with
  | some .w8 => .rev8 value
  | some .w16 => .rev16 value
  | some .w24 => .rev24 value
  | some .w32 => .rev32 value
  | none => .revX n value

/-- START with `width` field `n` (R72): a legal form, or START.x<n>. -/
def startInstr (n : BitVec 8) (iv : Word) : Instr :=
  match widthOfField n with
  | some .w8 => .start8 iv
  | some .w16 => .start16 iv
  | some .w24 => .start24 iv
  | some .w32 => .start32 iv
  | none => .startX n iv

/-- The decoder (R84). It is total: every 42-bit word decodes. -/
def decode (w : ReqWord) : Instr :=
  if reqOp w = 0b10#2 then .byte (reqByte w)
  else if reqOp w = 0b11#2 then .read
  else if reqOp w = 0b00#2 then revInstr (reqWidth w) (reqData w)
  else startInstr (reqWidth w) (reqData w)

/-- Why a number is refused as a request word. -/
inductive DecodeReject where
  /-- The number has a bit at or above bit 42: there is one request length, 42 bits (R71, R81). -/
  | notARequestWord
  deriving DecidableEq, Repr

/-- The decoder on any number: `req` as a number (R71), refused by name when it is no 42-bit word (log 10). -/
def decodeNumber (n : Nat) : Except DecodeReject Instr :=
  if n < 2 ^ 42 then .ok (decode (BitVec.ofNat 42 n)) else .error .notARequestWord

/-- The host's form of the decoder: the bits above `nbits` are 0. -/
def decodeTableWord (nbits w : Nat) : Option Instr :=
  match decodeNumber (w % 2 ^ nbits) with
  | .ok i => some i
  | .error _ => none

/-- A request word from its three fields: `(op << 40) | (width << 32) | data` (R71). -/
def requestWord (op : BitVec 2) (width : BitVec 8) (data : Word) : ReqWord := op ++ width ++ data

/-- The encoder (R82): ignored fields are written as 0. -/
def encode : Instr → ReqWord
  | .rev8 value => requestWord 0b00#2 0x08#8 value
  | .rev16 value => requestWord 0b00#2 0x10#8 value
  | .rev24 value => requestWord 0b00#2 0x18#8 value
  | .rev32 value => requestWord 0b00#2 0x20#8 value
  | .start8 iv => requestWord 0b01#2 0x08#8 iv
  | .start16 iv => requestWord 0b01#2 0x10#8 iv
  | .start24 iv => requestWord 0b01#2 0x18#8 iv
  | .start32 iv => requestWord 0b01#2 0x20#8 iv
  | .byte b => requestWord 0b10#2 0x00#8 (b.setWidth 32)
  | .read => requestWord 0b11#2 0x00#8 0#32
  | .revX n value => requestWord 0b00#2 n value
  | .startX n iv => requestWord 0b01#2 n iv

/-- A row of the opcode table: the row is tried on `req` by `req & mask = pattern` (R84). -/
structure TableRow where
  mnemonic : String
  mask     : ReqWord
  pattern  : ReqWord
  deriving DecidableEq, Repr

/-- spec/opcode_table.json, in the order its rows are tried (R84). -/
def opcodeTable : List TableRow := [
  ⟨"REV.8", 0x3FF00000000#42, 0x00800000000#42⟩,
  ⟨"REV.16", 0x3FF00000000#42, 0x01000000000#42⟩,
  ⟨"REV.24", 0x3FF00000000#42, 0x01800000000#42⟩,
  ⟨"REV.32", 0x3FF00000000#42, 0x02000000000#42⟩,
  ⟨"START.8", 0x3FF00000000#42, 0x10800000000#42⟩,
  ⟨"START.16", 0x3FF00000000#42, 0x11000000000#42⟩,
  ⟨"START.24", 0x3FF00000000#42, 0x11800000000#42⟩,
  ⟨"START.32", 0x3FF00000000#42, 0x12000000000#42⟩,
  ⟨"BYTE", 0x30000000000#42, 0x20000000000#42⟩,
  ⟨"READ", 0x30000000000#42, 0x30000000000#42⟩,
  ⟨"REV.x<n>", 0x30000000000#42, 0x00000000000#42⟩,
  ⟨"START.x<n>", 0x30000000000#42, 0x10000000000#42⟩]

/-- The first row of the table that a request word meets (R84). -/
def tableRowOf (w : ReqWord) : Option TableRow :=
  opcodeTable.find? fun row => w &&& row.mask == row.pattern

end Sys2Proof
end

