-- ==== Sys2Proof/Config.lean ====
section
/-! DEFINITION. What an instance fixes when it is built (spec 00_scope.md R9), the parameters the spec leaves OPEN
(R11), and the free value of REV at an illegal width (40_bit_reverser.md R110). -/

namespace Sys2Proof

/-- The build-time parameters of one instance (R9): four polynomial constants in normal form, each in a 32-bit
container. The defaults are the spec's. -/
structure Cfg where
  crc8Poly  : Word := 0x31#32
  crc16Poly : Word := 0x8005#32
  crc24Poly : Word := 0x00065B#32
  crc32Poly : Word := 0x04C11DB7#32
  deriving DecidableEq, Repr

/-- The values `BIT_ITER_PER_CYCLE` may take: how many of the eight feedback iterations one clock cycle performs
(R11). -/
inductive BitIterPerCycle where
  | one
  | two
  | four
  | eight
  deriving DecidableEq, Repr, Inhabited

/-- `any u32` (R14, R110): the free value of the `n`-th draw. It has no body, so nothing can be proved of it.
DESIGN CHOICE: the form is the model's (log 3); safe. -/
opaque Config.freeU32 : Nat → Word

/-- `RESET_ACTIVE_LEVEL`, OPEN (R11): no rule depends on it and no step reads it (log 7). -/
opaque Config.resetActiveLevel : Bool

/-- `RESET_IS_SYNC`, OPEN (R11): no rule depends on it and no step reads it (log 7). -/
opaque Config.resetIsSync : Bool

/-- `LAT_REV`, OPEN (R11): cycles from acceptance to response; the model has no time (R203, log 7). -/
opaque Config.latRev : Nat

/-- `LAT_START`, OPEN (R11): see `latRev`. -/
opaque Config.latStart : Nat

/-- `LAT_BYTE`, OPEN (R11): see `latRev`. -/
opaque Config.latByte : Nat

/-- `LAT_READ`, OPEN (R11): see `latRev`. -/
opaque Config.latRead : Nat

/-- `BIT_ITER_PER_CYCLE`, OPEN (R11): what a BYTE computes does not depend on it (R199, log 7). -/
opaque Config.bitIterPerCycle : BitIterPerCycle

end Sys2Proof
end

