-- ==== Sys2Proof/Machine/State.lean ====
section
/-! DEFINITION. The state of the CORE as plain data (spec 10_state.md R20, 30_encoding.md R70), its value right after
reset (70_reset_and_hazards.md R190), and the reasons a step can stop. -/

namespace Sys2Proof.Machine

/-- The four values of `STATUS` (R24). Their 2-bit codes are `Status.code`. -/
inductive Status where
  /-- a transaction is in progress -/
  | ok
  /-- the last START failed: invalid width -/
  | errWidth
  /-- the last START failed: initial value out of range -/
  | errInit
  /-- no START since reset -/
  | idle
  deriving DecidableEq, Repr

/-- What is driven on the input ports in one slot (R70): `rst` (true is active, whatever its level, R11), `req_valid`
and `req`. Log 2. -/
structure Pins where
  rst      : Bool
  reqValid : Bool
  req      : ReqWord
  deriving DecidableEq, Repr

/-- The state: the four elements of R20, the configuration (R9, log 1), the response port (R70, R78: none is
`rsp_valid` = 0), the inputs of the coming slots, oldest first (log 2), and the model's own count of free values drawn
(log 3). -/
structure State where
  acc    : Word
  rpoly  : Word
  mask   : Word
  status : Status
  cfg    : Cfg
  rsp    : Option RspWord
  inputs : List Pins
  draws  : Nat
  deriving DecidableEq, Repr

/-- The machine right after reset (R190): the four elements at their reset values, no response, the default
polynomials (R9). DESIGN CHOICE: no input waits (log 6) and no free value has been drawn (log 3). -/
def State.reset : State where
  acc := 0x00000000#32
  rpoly := 0x00000000#32
  mask := 0x00000000#32
  status := .idle
  cfg := {}
  rsp := none
  inputs := []
  draws := 0

/-- The reasons a step stops with a fault: there are none. "Nothing in the CORE is treated as `fault` or `stuck`"
(93_implementation_defined.md, end of Part 1); the two failures are ordinary outcomes (R160). Log 12; safe. -/
inductive Fault
  deriving DecidableEq, Repr

/-- The reasons the model refuses. No step raises one. -/
inductive Refusal where
  /-- An operation without a meaning in the model, by its mnemonic: raised by an arm of `exec`; no arm does. Safe. -/
  | notModelled (mnemonic : String)
  /-- COMPUTE launched on a buffer that is not readable for `length` bytes (R57, 93_implementation_defined.md U2):
  raised by `compute` alone, never by a step. Safe. -/
  | bufferNotReadable
  deriving DecidableEq, Repr

end Sys2Proof.Machine
end

