-- ==== Sys2Proof/Machine/Operands.lean ====
section
/-! DEFINITION. The operands: the dispatch table of widths (spec 41_crc_engine.md R120) and the zero-extended byte
(30_encoding.md R75). -/

namespace Sys2Proof.Machine

/-- `mask(w)`, the all-ones value of the width (R8, R120). -/
def maskOf : Width → Word
  | .w8 => 0x000000FF#32
  | .w16 => 0x0000FFFF#32
  | .w24 => 0x00FFFFFF#32
  | .w32 => 0xFFFFFFFF#32

/-- `shift(w) = 32 - w`: 24, 16, 8, 0 (R8, R102, R120). -/
def shiftOf (w : Width) : Nat := 32 - w.bits

/-- `poly(w)`, the configured polynomial of the width (R9, R120). -/
def polyOf (cfg : Cfg) : Width → Word
  | .w8 => cfg.crc8Poly
  | .w16 => cfg.crc16Poly
  | .w24 => cfg.crc24Poly
  | .w32 => cfg.crc32Poly

/-- `zext_32(b)` (R13, R75). -/
def zext32 (b : Byte) : Word := b.setWidth 32

/-- The test of R122: `w` in 8, 16, 24 and `iv > mask(w)`, unsigned. Width 32 is unchecked. -/
def initOutOfRange (w : Width) (iv : Word) : Bool :=
  match w with
  | .w8 => decide (maskOf .w8 < iv)
  | .w16 => decide (maskOf .w16 < iv)
  | .w24 => decide (maskOf .w24 < iv)
  | .w32 => false

end Sys2Proof.Machine
end

