-- ==== Sys2Proof/Machine/Flags.lean ====
section
/-! DEFINITION. `STATUS` is the CORE's only flag (spec 10_state.md R25): its codes (30_encoding.md R79), and the result
function that depends on it (41_crc_engine.md R130). -/

namespace Sys2Proof.Machine

/-- The 2-bit code of a status (R24, R79). -/
def Status.code : Status → BitVec 2
  | .ok => 0#2
  | .errWidth => 1#2
  | .errInit => 2#2
  | .idle => 3#2

/-- `out()`: `ACC & MASK` when `STATUS` = OK, else 0 (R130). -/
def State.out (s : State) : Word :=
  if s.status = .ok then s.acc &&& s.mask else 0x00000000#32

end Sys2Proof.Machine
end

