-- ==== Sys2Proof/Machine/Ops.lean ====
section
/-! DEFINITION. The operations the meanings share: the Bit Reverser (spec 40_bit_reverser.md), the feedback loop
(41_crc_engine.md section 2), writing the state elements, responding (30_encoding.md R78), the failures
(60_exceptions.md) and reset (70_reset_and_hazards.md R190). -/

namespace Sys2Proof.Machine

/-- `rev32(v)` (R100): bit `i` of the input sets bit `31 - i` of a local accumulator, for `i` from 0 to 31. -/
def rev32 (v : Word) : Word :=
  (List.range 32).foldl (fun a i => if v.getLsbD i then a ||| (1#32 <<< (31 - i)) else a) 0x00000000#32

/-- `REV(v, w) = rev32(v) >> (32 - w)`, a logical shift applied at every width, 24 included (R101, R111). -/
def reverse (v : Word) (w : Width) : Word := rev32 v >>> shiftOf w

/-- `crc_bit`, one feedback iteration; the bit tested is bit 0 before the shift (R127). -/
def crcBit (acc rpoly : Word) : Word :=
  if acc.getLsbD 0 then (acc >>> 1) ^^^ rpoly else acc >>> 1

/-- `n` feedback iterations. -/
def crcIterate (rpoly : Word) : Nat → Word → Word
  | 0, a => a
  | n + 1, a => crcIterate rpoly n (crcBit a rpoly)

/-- `crc_byte` (R128): the byte into the low 8 bits, once, then exactly 8 iterations. -/
def crcByte (acc rpoly : Word) (b : Byte) : Word := crcIterate rpoly 8 (acc ^^^ zext32 b)

/-- `crc_bytes` (R129): the bytes in order, lowest index first (R52). -/
def crcBytes (acc rpoly : Word) : List Byte → Word
  | [] => acc
  | b :: rest => crcBytes (crcByte acc rpoly b) rpoly rest

/-- How many iterations a cycle performs (R11). -/
def iterationsOf : BitIterPerCycle → Nat
  | .one => 1
  | .two => 2
  | .four => 4
  | .eight => 8

/-- `cycles` clock cycles, each of `perCycle` feedback iterations. -/
def crcCycles (rpoly : Word) (perCycle : Nat) : Nat → Word → Word
  | 0, a => a
  | cycles + 1, a => crcCycles rpoly perCycle cycles (crcIterate rpoly perCycle a)

/-- `crc_byte` as an implementation with this `BIT_ITER_PER_CYCLE` computes it: `8 / n` cycles of `n` iterations
(R11, R29, R199). No meaning uses it. -/
def crcByteUnrolled (u : BitIterPerCycle) (acc rpoly : Word) (b : Byte) : Word :=
  crcCycles rpoly (iterationsOf u) (8 / iterationsOf u) (acc ^^^ zext32 b)

/-- Write `ACC`. -/
def State.setAcc (a : Word) (s : State) : State := { s with acc := a }

/-- Write all four elements (R20). -/
def State.setElements (acc rpoly mask : Word) (status : Status) (s : State) : State :=
  { s with acc := acc, rpoly := rpoly, mask := mask, status := status }

/-- The response word `(status << 32) | result` (R78). -/
def responseWord (status : Status) (result : Word) : RspWord := status.code ++ result

/-- `respond(status, result)`: present the response word, `rsp_valid` = 1 (R14, R78). -/
def State.respond (status : Status) (result : Word) (s : State) : State :=
  { s with rsp := some (responseWord status result) }

/-- `respond(STATUS, out())`, the response of START, BYTE and READ (R78). -/
def State.respondOut (s : State) : State := s.respond s.status s.out

/-- No response in this slot: `rsp_valid` = 0. -/
def State.noResponse (s : State) : State := { s with rsp := none }

/-- Count one free value as drawn (log 3). -/
def State.countDraw (s : State) : State := { s with draws := s.draws + 1 }

/-- Replace the inputs of the coming slots. -/
def State.setInputs (q : List Pins) (s : State) : State := { s with inputs := q }

/-- A failure's whole effect on state (R165): `ACC`, `RPOLY`, `MASK` cleared and the code written to `STATUS`. Nothing
is saved and control goes nowhere; there is no return from it (R168). -/
def raiseFailure (code : Status) (s : State) : State :=
  s.setElements 0x00000000#32 0x00000000#32 0x00000000#32 code

/-- `raise InvalidWidth` (R161). -/
def raiseInvalidWidth (s : State) : State := raiseFailure .errWidth s

/-- `raise InitOutOfRange` (R162). -/
def raiseInitOutOfRange (s : State) : State := raiseFailure .errInit s

/-- The reset event's effect on the elements (R190); the configuration is not touched (R193). -/
def resetElements (s : State) : State :=
  s.setElements 0x00000000#32 0x00000000#32 0x00000000#32 .idle

/-- REV at a legal width (R106 to R109): respond OK and the reversal; no element read or written (R105). -/
def revOp (w : Width) (value : Word) (s : State) : State := s.respond .ok (reverse value w)

/-- REV at an illegal width (R110): respond OK and `any u32`, a free value. -/
def revFree (s : State) : State := (s.respond .ok (Config.freeU32 s.draws)).countDraw

/-- A START that passed validation loads the transaction (R124, R126, R131). -/
def loadTransaction (w : Width) (iv : Word) (s : State) : State :=
  s.setElements (iv &&& maskOf w) (reverse (polyOf s.cfg w) w) (maskOf w) .ok

/-- START at a legal width (R131). -/
def startOp (w : Width) (iv : Word) (s : State) : State :=
  (if initOutOfRange w iv then raiseInitOutOfRange s else loadTransaction w iv s).respondOut

/-- START at an illegal width (R136): the initial value is not examined. -/
def startIllegal (s : State) : State := (raiseInvalidWidth s).respondOut

/-- BYTE (R137): a no-operation unless `STATUS` = OK. -/
def byteOp (b : Byte) (s : State) : State :=
  (if s.status = .ok then s.setAcc (crcByte s.acc s.rpoly b) else s).respondOut

end Sys2Proof.Machine
end

