-- ==== Sys2Proof/Machine/Channel.lean ====
section
/-! DEFINITION. The request channel (spec 30_encoding.md R70, R80; 70_reset_and_hazards.md R190, R192, R196): what one
slot of the input ports does before an operation's meaning runs. -/

namespace Sys2Proof.Machine

/-- `req_ready` in a slot: held at 0 while `rst` is active, 1 otherwise. The 0 of an operation in flight lies inside a
step (R70, R199, log 2). -/
def reqReady (p : Pins) : Bool := !p.rst

/-- A request is accepted where `req_valid` and `req_ready` are both 1 (R70, R196). -/
def accepted (p : Pins) : Bool := p.reqValid && reqReady p

/-- A slot in which this word is requested. -/
def Pins.request (w : ReqWord) : Pins := { rst := false, reqValid := true, req := w }

/-- RESET, the pseudo-operation: a slot in which `rst` is active and nothing is requested (R83, R190). -/
def Pins.reset : Pins := { rst := true, reqValid := false, req := 0#42 }

/-- A slot in which nothing happens. -/
def Pins.idle : Pins := { rst := false, reqValid := false, req := 0#42 }

/-- What a slot brings: an accepted operation and the state it starts from, or a state in which the slot has ended. -/
inductive Fetched where
  | operation (i : Instr) (s : State)
  | finished (s : State)
  deriving DecidableEq, Repr

/-- Take the next slot. Reset writes the elements and drops any request with it, which gets no response (R190, R192).
An accepted request is decoded (R84). Otherwise the state is held and there is no response (R177, R196). An empty list
is a requester that drives nothing (log 5). -/
def fetch (s : State) : Fetched :=
  match s.inputs with
  | [] => .finished s.noResponse
  | p :: rest =>
    if p.rst then .finished (resetElements (s.setInputs rest)).noResponse
    else if accepted p then .operation (decode p.req) (s.setInputs rest)
    else .finished (s.setInputs rest).noResponse

end Sys2Proof.Machine
end

