-- ==== Sys2Proof/Machine/Engine.lean ====
section
/-! DEFINITION. The meanings of the CRC Engine's operations (spec 41_crc_engine.md R131 to R137, R139). -/

namespace Sys2Proof.Machine

/-- START.8 (R132). -/
def execStart8 (iv : Word) (s : State) : Host.Outcome State Fault Refusal := .next (startOp .w8 iv s)

/-- START.16 (R133). -/
def execStart16 (iv : Word) (s : State) : Host.Outcome State Fault Refusal := .next (startOp .w16 iv s)

/-- START.24 (R134). -/
def execStart24 (iv : Word) (s : State) : Host.Outcome State Fault Refusal := .next (startOp .w24 iv s)

/-- START.32 (R135). -/
def execStart32 (iv : Word) (s : State) : Host.Outcome State Fault Refusal := .next (startOp .w32 iv s)

/-- START at an illegal width (R136). -/
def execStartX (_width : BitVec 8) (_iv : Word) (s : State) : Host.Outcome State Fault Refusal :=
  .next (startIllegal s)

/-- BYTE (R137). -/
def execByte (b : Byte) (s : State) : Host.Outcome State Fault Refusal := .next (byteOp b s)

/-- READ (R139): no state change. -/
def execRead (s : State) : Host.Outcome State Fault Refusal := .next s.respondOut

end Sys2Proof.Machine
end

