-- ==== Sys2Proof/Machine/Reverser.lean ====
section
/-! DEFINITION. The meanings of the Bit Reverser's operations (spec 40_bit_reverser.md R106 to R110). -/

namespace Sys2Proof.Machine

/-- REV.8 (R106). -/
def execRev8 (value : Word) (s : State) : Host.Outcome State Fault Refusal := .next (revOp .w8 value s)

/-- REV.16 (R107). -/
def execRev16 (value : Word) (s : State) : Host.Outcome State Fault Refusal := .next (revOp .w16 value s)

/-- REV.24 (R108). -/
def execRev24 (value : Word) (s : State) : Host.Outcome State Fault Refusal := .next (revOp .w24 value s)

/-- REV.32 (R109). -/
def execRev32 (value : Word) (s : State) : Host.Outcome State Fault Refusal := .next (revOp .w32 value s)

/-- REV at an illegal width (R110). Neither operand has a say in the result. -/
def execRevX (_width : BitVec 8) (_value : Word) (s : State) : Host.Outcome State Fault Refusal :=
  .next (revFree s)

end Sys2Proof.Machine
end

