-- ==== Sys2Proof/Machine/Dispatch.lean ====
section
/-! DEFINITION. The meaning of every operation, one arm per constructor (spec 30_encoding.md R72). -/

namespace Sys2Proof.Machine

def exec (i : Instr) (s : State) : Host.Outcome State Fault Refusal :=
  match i with
  | .rev8 value => Sys2Proof.Machine.execRev8 value s
  | .rev16 value => Sys2Proof.Machine.execRev16 value s
  | .rev24 value => Sys2Proof.Machine.execRev24 value s
  | .rev32 value => Sys2Proof.Machine.execRev32 value s
  | .start8 iv => Sys2Proof.Machine.execStart8 iv s
  | .start16 iv => Sys2Proof.Machine.execStart16 iv s
  | .start24 iv => Sys2Proof.Machine.execStart24 iv s
  | .start32 iv => Sys2Proof.Machine.execStart32 iv s
  | .byte b => Sys2Proof.Machine.execByte b s
  | .read => Sys2Proof.Machine.execRead s
  | .revX width value => Sys2Proof.Machine.execRevX width value s
  | .startX width iv => Sys2Proof.Machine.execStartX width iv s

end Sys2Proof.Machine
end

