-- ==== Sys2Proof/Machine/Step.lean ====
section
/-! DEFINITION. One step of the CORE: one slot of its input ports, with an accepted operation run whole
(spec 70_reset_and_hazards.md R199). -/

namespace Sys2Proof.Machine

/-- One step. -/
def step (s : State) : Host.Outcome State Fault Refusal :=
  match fetch s with
  | .operation i t => Sys2Proof.Machine.exec i t
  | .finished t => .next t

/-- The state with the word requested in the very next slot; what waited before waits behind it. A program comes to
the CORE only so, from its requester (log 6). -/
def State.withFetchWord (s : State) (nbits w : Nat) : State :=
  { s with inputs := { rst := false, reqValid := true, req := BitVec.ofNat 42 (w % 2 ^ nbits) } :: s.inputs }

end Sys2Proof.Machine
end

