-- ==== Sys2Proof/Machine/Compute.lean ====
section
/-! DEFINITION. The pseudo-operation COMPUTE (spec 41_crc_engine.md R138, 30_encoding.md R83): the software caller's view,
over the meanings of START, BYTE and READ. No step calls it. -/

namespace Sys2Proof.Machine

/-- Go on from a next state; a stop stays a stop. -/
def andThen (o : Host.Outcome State Fault Refusal) (f : State → Host.Outcome State Fault Refusal) :
    Host.Outcome State Fault Refusal :=
  match o with
  | .next s => f s
  | .fault r => .fault r
  | .refused r => .refused r

/-- A sequence of operations, each wholly before the next (R28, R60). -/
def execAll : List Instr → State → Host.Outcome State Fault Refusal
  | [], s => .next s
  | i :: rest, s => andThen (exec i s) (execAll rest)

/-- The bytes of the caller's buffer: `memRead a` is what the one `MemRead(a, 1)` of address `a` returns, none where it
is not readable (R14, R57). Each address is read once (R56), so this covers a buffer that changes too (R58, U3). -/
def readBuffer (memRead : Nat → Option Byte) (buf : Nat) : Nat → Option (List Byte)
  | 0 => some []
  | n + 1 =>
    match memRead buf, readBuffer memRead (buf + 1) n with
    | some b, some rest => some (b :: rest)
    | some _, none => none
    | none, _ => none

/-- COMPUTE (R138). Its value is the response of the state it ends in. A launch on a buffer that is not readable for
`length` bytes is refused (R57, U2, log 11); then START, and unless it failed a BYTE for each byte in ascending order
and a READ; after a failed START none of them is issued. -/
def compute (memRead : Nat → Option Byte) (iv : Word) (width : BitVec 8) (buf : Nat) (length : Word) (s : State) :
    Host.Outcome State Fault Refusal :=
  match readBuffer memRead buf length.toNat with
  | none => .refused .bufferNotReadable
  | some bytes =>
    andThen (exec (startInstr width iv) s) fun t =>
      if t.status = .ok then andThen (execAll (bytes.map .byte) t) (exec .read) else .next t

/-- The requests COMPUTE stands for: START, a BYTE for each byte, READ (R83). -/
def computeRequests (width : BitVec 8) (iv : Word) (bytes : List Byte) : List ReqWord :=
  requestWord 0b01#2 width iv :: (bytes.map fun b => encode (.byte b)) ++ [encode .read]

end Sys2Proof.Machine
end

