-- ==== Sys2Proof/Safety.lean ====
section
/-! DEFINITION. What claims about runs are stated in: the invariants of the state (spec 10_state.md R34, R22) and the
reachable states. -/

namespace Sys2Proof.Machine

/-- The four width masks (R8). -/
abbrev LegalMask (m : Word) : Prop :=
  m = 0x000000FF#32 ∨ m = 0x0000FFFF#32 ∨ m = 0x00FFFFFF#32 ∨ m = 0xFFFFFFFF#32

/-- The invariants of R34, in its order. -/
abbrev State.Inv (s : State) : Prop :=
  (s.status = .ok → LegalMask s.mask) ∧
  (s.status = .ok → s.rpoly &&& s.mask = s.rpoly) ∧
  (s.status = .ok → s.acc &&& s.mask = s.acc) ∧
  (s.status ≠ .ok → s.acc = 0#32 ∧ s.rpoly = 0#32 ∧ s.mask = 0#32)

/-- The state's four elements agree (R20). -/
abbrev SameElements (s t : State) : Prop :=
  s.acc = t.acc ∧ s.rpoly = t.rpoly ∧ s.mask = t.mask ∧ s.status = t.status

/-- An open transaction is of one width: its mask, and its reflected polynomial from the configuration, which no
operation but START writes (R22, R23). -/
abbrev State.OneWidth (s : State) : Prop :=
  s.status = .ok → ∃ w : Width, s.mask = maskOf w ∧ s.rpoly = reverse (polyOf s.cfg w) w ∧ s.acc ≤ maskOf w

/-- A power-up of any instance: the reset state under any configuration, with any inputs to come. -/
abbrev State.PowerUp (s : State) : Prop :=
  s = { State.reset with cfg := s.cfg, inputs := s.inputs }

/-- The states that a power-up and any number of steps lead to (R34). -/
inductive Reachable : State → Prop where
  | powerUp (s : State) (h : s.PowerUp) : Reachable s
  | step (s t : State) (h : Reachable s) (hst : step s = .next t) : Reachable t

end Sys2Proof.Machine
end

