-- ==== Sys2Proof/Certificates/Slice0/Obligations.lean ====
section
/-! DEFINITION. The statements for the provers, each written from the rules of spec/ its docstring names. Every next state
is written as the old state with the fields that change, so that each statement is its frame as well. -/

open Sys2Proof Sys2Proof.Machine

namespace Sys2Proof.Claims

/-- `r` is the reversal of the low `n` bits of `v`, right-aligned. -/
abbrev Reverses (r v : Word) (n : Nat) : Prop :=
  (∀ j, j < n → r.getLsbD j = v.getLsbD (n - 1 - j)) ∧ ∀ j, n ≤ j → r.getLsbD j = false

/-- The words with this `op` and `width` field decode to this form, with operand `req[31:0]`. -/
abbrev EncodedAs (mk : Word → Instr) (pattern : ReqWord) : Prop :=
  ∀ w : ReqWord, w &&& 0x3FF00000000#42 = pattern → decode w = mk (w.extractLsb' 0 32)

/-- REV at width `n`: status 0, the reversal as result, and nothing else changed. -/
abbrev RespondsReversal (mk : Word → Instr) (n : Nat) (pattern : ReqWord) : Prop :=
  EncodedAs mk pattern ∧
  ∀ (v : Word) (s : State), ∃ r : Word,
    exec (mk v) s = .next { s with rsp := some (0#2 ++ r) } ∧ Reverses r v n

/-- A START that loads the transaction of width `n`. -/
abbrev Loads (mk : Word → Instr) (n : Nat) (mask : Word) (poly : Cfg → Word) (iv : Word) (s : State) : Prop :=
  ∃ r : Word,
    exec (mk iv) s =
      .next { s with acc := iv, rpoly := r, mask := mask, status := .ok, rsp := some (0#2 ++ iv) } ∧
    Reverses r (poly s.cfg) n

/-- START at width `n` below 32: it loads up to the mask and fails above it. -/
abbrev LoadsOrFails (mk : Word → Instr) (n : Nat) (mask : Word) (poly : Cfg → Word) (pattern : ReqWord) : Prop :=
  EncodedAs mk pattern ∧
  (∀ (iv : Word) (s : State), iv ≤ mask → Loads mk n mask poly iv s) ∧
  ∀ (iv : Word) (s : State), mask < iv →
    exec (mk iv) s =
      .next { s with acc := 0#32, rpoly := 0#32, mask := 0#32, status := .errInit, rsp := some (2#2 ++ 0#32) }

/-- The status codes: 0 OK, 1 ERR_WIDTH, 2 ERR_INIT, 3 IDLE. -/
abbrev CodeIs (st : Status) (c : BitVec 2) : Prop :=
  (st = .ok ∧ c = 0#2) ∨ (st = .errWidth ∧ c = 1#2) ∨ (st = .errInit ∧ c = 2#2) ∨ (st = .idle ∧ c = 3#2)

/-- The illegal values of the `width` field. -/
abbrev IllegalWidth (n : BitVec 8) : Prop := n ∉ [0x08#8, 0x10#8, 0x18#8, 0x20#8]

/-- The `width` field that carries this width. -/
abbrev FieldOf (n : BitVec 8) (w : Width) : Prop := n.toNat = w.bits

/-- The forms of REV. -/
def isRev : Instr → Bool
  | .rev8 _ => true
  | .rev16 _ => true
  | .rev24 _ => true
  | .rev32 _ => true
  | .revX _ _ => true
  | .start8 _ => false
  | .start16 _ => false
  | .start24 _ => false
  | .start32 _ => false
  | .startX _ _ => false
  | .byte _ => false
  | .read => false

/-- The forms of START. -/
def isStart : Instr → Bool
  | .start8 _ => true
  | .start16 _ => true
  | .start24 _ => true
  | .start32 _ => true
  | .startX _ _ => true
  | .rev8 _ => false
  | .rev16 _ => false
  | .rev24 _ => false
  | .rev32 _ => false
  | .revX _ _ => false
  | .byte _ => false
  | .read => false

/-- The caller's buffer at `buf` is these bytes. -/
abbrev BufferIs (memRead : Nat → Option Byte) (buf : Nat) (length : Word) (bytes : List Byte) : Prop :=
  bytes.length = length.toNat ∧ ∀ i (h : i < bytes.length), memRead (buf + i) = some bytes[i]

/-- The state with these requests in its next slots. -/
abbrev Requesting (s : State) (ws : List ReqWord) (rest : List Pins) : State :=
  { s with inputs := ws.map Pins.request ++ rest }

/-- In this slot `rst` is active, or the CORE accepts a START. -/
abbrev ResetOrStart (p : Pins) : Prop := p.rst = true ∨ (p.reqValid = true ∧ p.req.extractLsb' 40 2 = 1#2)

end Sys2Proof.Claims

open Sys2Proof.Claims

/-! The Bit Reverser. -/

/-- R106, R107, R108, R109. -/
def Obligations.RevRespondsReversalOfLowBits : Prop :=
  RespondsReversal .rev8 8 0x00800000000#42 ∧ RespondsReversal .rev16 16 0x01000000000#42 ∧
  RespondsReversal .rev24 24 0x01800000000#42 ∧ RespondsReversal .rev32 32 0x02000000000#42

/-- 40_bit_reverser.md section 2, REV at an illegal width. The result is the free value of the draw; the statement holds
whatever it is. The model's own choices: `freeU32 s.draws` as its form and the count of draws (log 3), and that REV.x<n>
with a legal width field, which no word decodes to, runs as the same form (log 8). -/
def Obligations.RevIllegalWidthRespondsFreeValue : Prop :=
  (∀ w : ReqWord, w.extractLsb' 40 2 = 0#2 → IllegalWidth (w.extractLsb' 32 8) →
    decode w = .revX (w.extractLsb' 32 8) (w.extractLsb' 0 32)) ∧
  ∀ (n : BitVec 8) (v : Word) (s : State),
    exec (.revX n v) s =
      .next { s with rsp := some (0#2 ++ Config.freeU32 s.draws), draws := s.draws + 1 }

/-- 40_bit_reverser.md section 4, laws 1, 2, 3, 4 and 6, which the spec marks derived. -/
def Obligations.BitReverserLaws : Prop :=
  (∀ v, rev32 (rev32 v) = v) ∧
  (∀ v w, reverse (reverse v w) w = v &&& maskOf w) ∧
  (∀ w, reverse 0#32 w = 0#32 ∧ reverse (maskOf w) w = maskOf w) ∧
  (∀ u v w, reverse (v ^^^ u) w = reverse v w ^^^ reverse u w ∧
    reverse (v &&& u) w = reverse v w &&& reverse u w ∧ reverse (v ||| u) w = reverse v w ||| reverse u w) ∧
  ∀ v, reverse v .w32 = rev32 v

/-- 40_bit_reverser.md section 4, law 5, which the spec marks derived: one bit goes to its mirror place, or away. -/
def Obligations.ReverseOfOneBit : Prop :=
  ∀ (w : Width) (j : Nat), j < 32 →
    reverse (1#32 <<< j) w = if j < w.bits then 1#32 <<< (w.bits - 1 - j) else 0#32

/-! START. -/

/-- R132, R133, R134. -/
def Obligations.StartBelow32LoadsOrFails : Prop :=
  LoadsOrFails .start8 8 0x000000FF#32 Cfg.crc8Poly 0x10800000000#42 ∧
  LoadsOrFails .start16 16 0x0000FFFF#32 Cfg.crc16Poly 0x11000000000#42 ∧
  LoadsOrFails .start24 24 0x00FFFFFF#32 Cfg.crc24Poly 0x11800000000#42

/-- R135. -/
def Obligations.Start32AlwaysLoads : Prop :=
  EncodedAs .start32 0x12000000000#42 ∧
  ∀ (iv : Word) (s : State), Loads .start32 32 0xFFFFFFFF#32 Cfg.crc32Poly iv s

/-- 41_crc_engine.md section 4, START at an illegal width. That START.x<n> with a legal width field, which no word decodes
to, runs as the failing form is the model's own choice (log 8). -/
def Obligations.StartIllegalWidthFails : Prop :=
  (∀ w : ReqWord, w.extractLsb' 40 2 = 1#2 → IllegalWidth (w.extractLsb' 32 8) →
    decode w = .startX (w.extractLsb' 32 8) (w.extractLsb' 0 32)) ∧
  ∀ (n : BitVec 8) (iv : Word) (s : State),
    exec (.startX n iv) s =
      .next { s with acc := 0#32, rpoly := 0#32, mask := 0#32, status := .errWidth, rsp := some (1#2 ++ 0#32) }

/-- 41_crc_engine.md section 1: that only the low `w` bits of a polynomial matter is marked derived there. -/
def Obligations.PolynomialBitsAboveWidthHaveNoEffect : Prop :=
  ∀ (n : BitVec 8) (w : Width) (iv : Word) (s u t t' : State), FieldOf n w →
    polyOf s.cfg w &&& maskOf w = polyOf u.cfg w &&& maskOf w →
    exec (startInstr n iv) s = .next t → exec (startInstr n iv) u = .next t' →
    SameElements t t' ∧ t.rsp = t'.rsp

/-- 60_exceptions.md section 1: the two failures, their causes, and that no other operation raises one. That START.x<n>
with a legal width field, which no word decodes to, fails with ERR_WIDTH is the model's own choice (log 8). -/
def Obligations.FailuresAreRaisedByStartOnly : Prop :=
  ∀ (i : Instr) (s t : State), exec i s = .next t →
    (isStart i = false → t.status = s.status) ∧
    (isStart i = true → t.status ≠ .idle ∧
      (t.status = .errWidth ↔ ∃ n iv, i = .startX n iv) ∧
      (t.status = .errInit ↔ ∃ iv,
        (i = .start8 iv ∧ 0x000000FF#32 < iv) ∨ (i = .start16 iv ∧ 0x0000FFFF#32 < iv) ∨
        (i = .start24 iv ∧ 0x00FFFFFF#32 < iv)))

/-! BYTE and READ. -/

/-- R137 with R127 and R128: the byte into the low 8 bits, then eight iterations; nothing unless STATUS is OK. -/
def Obligations.ByteFoldsEightIterations : Prop :=
  (∀ w : ReqWord, w &&& 0x30000000000#42 = 0x20000000000#42 → decode w = .byte (w.extractLsb' 0 8)) ∧
  (∀ (b : Byte) (s : State), s.status = .ok → ∃ a : Nat → Word,
    a 0 = s.acc ^^^ b.setWidth 32 ∧
    (∀ k, k < 8 → a (k + 1) = if (a k).getLsbD 0 then (a k >>> 1) ^^^ s.rpoly else a k >>> 1) ∧
    exec (.byte b) s = .next { s with acc := a 8, rsp := some (0#2 ++ (a 8 &&& s.mask)) }) ∧
  ∀ (b : Byte) (s : State) (c : BitVec 2), s.status ≠ .ok → CodeIs s.status c →
    exec (.byte b) s = .next { s with rsp := some (c ++ 0#32) }

/-- R139 with R130. -/
def Obligations.ReadRespondsStatusAndResult : Prop :=
  (∀ w : ReqWord, w &&& 0x30000000000#42 = 0x30000000000#42 → decode w = .read) ∧
  ∀ (s : State) (c : BitVec 2), CodeIs s.status c →
    exec .read s = .next { s with rsp := some (c ++ if s.status = .ok then s.acc &&& s.mask else 0#32) }

/-- 30_encoding.md section 5, the response table: START, BYTE and READ respond the status and `out()` of the state they
leave, REV responds status 0. -/
def Obligations.EveryResponseIsOfTheStateLeft : Prop :=
  ∀ (i : Instr) (s t : State), exec i s = .next t →
    (isRev i = true → ∃ r : Word, t.rsp = some (0#2 ++ r)) ∧
    (isRev i = false → ∀ c, CodeIs t.status c →
      t.rsp = some (c ++ if t.status = .ok then t.acc &&& t.mask else 0#32))

/-- 41_crc_engine.md section 6, linearity, which the spec marks derived. -/
def Obligations.CrcByteIsLinear : Prop :=
  ∀ (a a' rpoly : Word) (b b' : Byte),
    crcByte (a ^^^ a') rpoly (b ^^^ b') = crcByte a rpoly b ^^^ crcByte a' rpoly b'

/-- 95_test_vectors.md section 3, a law the spec marks derived. -/
def Obligations.CrcByteOfTopBitIsThePolynomial : Prop :=
  ∀ rpoly : Word, crcByte 0#32 rpoly 0x80#8 = rpoly

/-- 70_reset_and_hazards.md section 3, atomicity: what a BYTE computes is the same whatever `BIT_ITER_PER_CYCLE` is. The
form of the grouped computation is the model's choice (log 7). -/
def Obligations.IterationsPerCycleCannotBeSeen : Prop :=
  ∀ (u : BitIterPerCycle) (acc rpoly : Word) (b : Byte), crcByteUnrolled u acc rpoly b = crcByte acc rpoly b

/-! What operations leave alone. -/

/-- 10_state.md section 10, the access table, which the spec marks derived. The frame of `inputs` and `draws` is the
model's (log 2, log 3). -/
def Obligations.AccessTableFrame : Prop :=
  ∀ (i : Instr) (s t : State), exec i s = .next t →
    t.cfg = s.cfg ∧ t.inputs = s.inputs ∧
    (isRev i = true ∨ i = .read → SameElements s t) ∧
    (∀ b, i = .byte b →
      t.rpoly = s.rpoly ∧ t.mask = s.mask ∧ t.status = s.status ∧ (s.status ≠ .ok → t.acc = s.acc)) ∧
    ((∀ n v, i ≠ .revX n v) → t.draws = s.draws)

/-- R24: only START and reset write STATUS. -/
def Obligations.OnlyStartAndResetWriteStatus : Prop :=
  ∀ s t : State, step s = .next t → t.status ≠ s.status →
    ∃ p rest, s.inputs = p :: rest ∧ ResetOrStart p

/-- R22, R23: nothing but START and reset writes RPOLY and MASK, so they are constant through a transaction. -/
def Obligations.PolynomialAndMaskConstantInTransaction : Prop :=
  ∀ s t : State, step s = .next t → (∀ p rest, s.inputs = p :: rest → ¬ ResetOrStart p) →
    t.rpoly = s.rpoly ∧ t.mask = s.mask

/-- 00_scope.md section 4 and 70_reset_and_hazards.md section 1: the polynomial constants never change while the instance
runs, reset included. -/
def Obligations.StepKeepsConfiguration : Prop :=
  ∀ s t : State, step s = .next t → t.cfg = s.cfg

/-- 10_state.md section 8 and 95_test_vectors.md P5: REV operations put anywhere among others do not disturb the engine. -/
def Obligations.RevOperationsDoNotDisturbTheEngine : Prop :=
  ∀ (q q' : List Instr) (s t u : State), q' = q.filter (fun i => !isRev i) →
    execAll q s = .next t → execAll q' s = .next u → SameElements t u

/-- 60_exceptions.md sections 3 and 4: while STATUS is not OK, operations other than START change no element, however many
there are. -/
def Obligations.FailurePersistsUntilStart : Prop :=
  ∀ (q : List Instr) (s t : State), s.status ≠ .ok → (∀ i ∈ q, isStart i = false) →
    execAll q s = .next t → SameElements s t

/-! The channel and reset. -/

/-- 70_reset_and_hazards.md section 1: the reset values, no response, `req_ready` = 0, and a request with it dropped. The
model's own choices: a slot is a step and `req_ready` is 1 in every slot with `rst` released (log 2); reset is one slot
whose request is dropped, and the later inputs, the count of draws and the configuration are kept (log 4, log 1). -/
def Obligations.ResetEventWritesResetValues : Prop :=
  ∀ (s : State) (p : Pins) (rest : List Pins), s.inputs = p :: rest → p.rst = true →
    reqReady p = false ∧ (∀ q : Pins, q.rst = false → reqReady q = true) ∧
    step s =
      .next { s with
        acc := 0#32, rpoly := 0#32, mask := 0#32, status := .idle, rsp := none, inputs := rest }

/-- 30_encoding.md section 1 and 10_state.md section 6: a slot whose request is accepted runs the decoded operation, on the
state past that slot. The form of the channel is the model's (log 2). -/
def Obligations.StepRunsTheDecodedRequest : Prop :=
  ∀ (s : State) (p : Pins) (rest : List Pins),
    s.inputs = p :: rest → p.rst = false → p.reqValid = true →
    step s = exec (decode p.req) { s with inputs := rest }

/-- 60_exceptions.md section 7 and 70_reset_and_hazards.md section 3: with no request in a slot, or no slot, the state is
held and there is no response (log 2, log 5). -/
def Obligations.IdleSlotHoldsTheState : Prop :=
  (∀ s : State, s.inputs = [] → step s = .next { s with rsp := none }) ∧
  ∀ (s : State) (p : Pins) (rest : List Pins), s.inputs = p :: rest → p.rst = false → p.reqValid = false →
    reqReady p = true ∧ step s = .next { s with rsp := none, inputs := rest }

/-- 30_encoding.md sections 1 and 5: an accepted request, and nothing else, gets a response, one for each (log 2). -/
def Obligations.ResponseExactlyToAcceptedRequest : Prop :=
  ∀ (s t : State) (p : Pins) (rest : List Pins), s.inputs = p :: rest → step s = .next t →
    t.inputs = rest ∧ ((∃ r, t.rsp = some r) ↔ p.reqValid = true ∧ reqReady p = true)

/-- 60_exceptions.md section 5 and 93_implementation_defined.md Part 1: nothing is exceptional, and the CORE cannot hang. -/
def Obligations.StepAlwaysAnswersNext : Prop :=
  ∀ s : State, ∃ t, step s = .next t

/-! Encoding. -/

/-- 30_encoding.md section 7 and 95_test_vectors.md: words of the spec and the operations they stand for. -/
def Obligations.SpecWordsDecode : Prop :=
  decode 0x00800000031#42 = .rev8 0x31#32 ∧ decode 0x0180000065B#42 = .rev24 0x65B#32 ∧
  decode 0x10800000000#42 = .start8 0#32 ∧ decode 0x120FFFFFFFF#42 = .start32 0xFFFFFFFF#32 ∧
  decode 0x20000000001#42 = .byte 0x01#8 ∧ decode 0x2ABDEADBE01#42 = .byte 0x01#8 ∧
  decode 0x30000000000#42 = .read ∧ decode 0x00700000001#42 = .revX 7#8 1#32 ∧
  decode 0x10700000100#42 = .startX 7#8 0x100#32

/-- 30_encoding.md sections 2, 7 and 8: decoding an encoded operation gives it back. -/
def Obligations.DecodeOfEncode : Prop :=
  ∀ i : Instr, i.wellFormed = true → decode (encode i) = i

/-- 30_encoding.md sections 4 and 7: encoding a decoded word gives the word with its ignored bits 0. -/
def Obligations.EncodeOfDecodeClearsIgnoredBits : Prop :=
  ∀ w : ReqWord, encode (decode w) =
    if w.extractLsb' 40 2 = 2#2 then w &&& 0x200000000FF#42
    else if w.extractLsb' 40 2 = 3#2 then w &&& 0x30000000000#42
    else w

/-- 30_encoding.md section 8: the decoder agrees with the opcode table, whose first row that meets the word gives the
operation; and what it gives is well-formed. -/
def Obligations.DecodeAgreesWithOpcodeTable : Prop :=
  ∀ w : ReqWord, (tableRowOf w).map TableRow.mnemonic = some (decode w).mnemonic ∧ (decode w).wellFormed = true

/-! COMPUTE. -/

/-- R138. -/
def Obligations.ComputeClosedForm : Prop :=
  ∀ (memRead : Nat → Option Byte) (iv : Word) (n : BitVec 8) (buf : Nat) (length : Word) (bytes : List Byte)
    (s : State), BufferIs memRead buf length bytes →
    ∃ t, compute memRead iv n buf length s = .next t ∧
      (∀ w, FieldOf n w → iv ≤ maskOf w →
        t.rsp = some (0#2 ++
          (crcBytes (iv &&& maskOf w) (reverse (polyOf s.cfg w) w) bytes &&& maskOf w))) ∧
      (∀ w, FieldOf n w → maskOf w < iv → t.rsp = some (2#2 ++ 0#32)) ∧
      (IllegalWidth n → t.rsp = some (1#2 ++ 0#32))

/-- R57: a launch on a buffer that is not readable for `length` bytes is refused. -/
def Obligations.ComputeRefusesUnreadableBuffer : Prop :=
  ∀ (memRead : Nat → Option Byte) (iv : Word) (n : BitVec 8) (buf : Nat) (length : Word) (s : State),
    (∃ i, i < length.toNat ∧ memRead (buf + i) = none) →
    compute memRead iv n buf length s = .refused .bufferNotReadable

/-- R143: no bit of the result at or above the width, in the value of COMPUTE and in every response of START, BYTE and
READ; a failure's result 0 included. -/
def Obligations.ResultHasNoBitAboveWidth : Prop :=
  (∀ (memRead : Nat → Option Byte) (iv : Word) (n : BitVec 8) (w : Width) (buf : Nat) (length : Word) (s t : State),
    FieldOf n w → compute memRead iv n buf length s = .next t →
    ∃ (c : BitVec 2) (r : Word), t.rsp = some (c ++ r) ∧ ∀ j, w.bits ≤ j → r.getLsbD j = false) ∧
  ∀ (i : Instr) (w : Width) (s t : State), isRev i = false → exec i s = .next t →
    (t.status = .ok → t.mask = maskOf w) →
    ∃ (c : BitVec 2) (r : Word), t.rsp = some (c ++ r) ∧ ∀ j, w.bits ≤ j → r.getLsbD j = false

/-- R140: a zero length answers the initial value, whatever the buffer is. -/
def Obligations.ZeroLengthAnswersInitialValue : Prop :=
  ∀ (memRead : Nat → Option Byte) (iv : Word) (n : BitVec 8) (w : Width) (buf : Nat) (s : State),
    FieldOf n w → iv ≤ maskOf w →
    ∃ t, compute memRead iv n buf 0#32 s = .next t ∧ t.rsp = some (0#2 ++ (iv &&& maskOf w)) ∧
      iv &&& maskOf w = iv

/-- R83: the requests COMPUTE stands for, taken one a step from the channel, end in COMPUTE's response and elements, with
the inputs behind them left. -/
def Obligations.RequestStreamComputes : Prop :=
  ∀ (memRead : Nat → Option Byte) (iv : Word) (n : BitVec 8) (buf : Nat) (length : Word) (bytes : List Byte)
    (s t : State) (rest : List Pins), BufferIs memRead buf length bytes →
    compute memRead iv n buf length s = .next t →
    ∃ u, Host.Core.run Sys2Proof.core (bytes.length + 2) (Requesting s (computeRequests n iv bytes) rest) = .next u ∧
      SameElements u t ∧ u.rsp = t.rsp ∧ u.inputs = rest

/-- R31: a START overwrites all four elements from its operands and the configuration alone, so the result of a
transaction is a function of its own operands and the configuration, whatever went before. -/
def Obligations.TransactionDependsOnItsOwnOperandsOnly : Prop :=
  ∀ (iv : Word) (n : BitVec 8) (bytes : List Byte) (s s' : State), s.cfg = s'.cfg →
    (∃ t t', exec (startInstr n iv) s = .next t ∧ exec (startInstr n iv) s' = .next t' ∧
      SameElements t t' ∧ t.rsp = t'.rsp) ∧
    ∃ t t',
      execAll (startInstr n iv :: bytes.map .byte ++ [.read]) s = .next t ∧
      execAll (startInstr n iv :: bytes.map .byte ++ [.read]) s' = .next t' ∧
      SameElements t t' ∧ t.rsp = t'.rsp

/-- 41_crc_engine.md section 6, chaining, whose general form the spec marks derived: the CRC of two pieces is that of the
second, started from the result of the first. -/
def Obligations.ChainingAcrossTwoTransactions : Prop :=
  ∀ (memRead : Nat → Option Byte) (iv r : Word) (n : BitVec 8) (w : Width) (buf : Nat) (k m : Word)
    (s t u v : State),
    FieldOf n w → k.toNat + m.toNat < 2 ^ 32 → iv ≤ maskOf w →
    compute memRead iv n buf (k + m) s = .next t →
    compute memRead iv n buf k s = .next u → u.rsp = some (0#2 ++ r) →
    compute memRead r n (buf + k.toNat) m u = .next v →
    v.rsp = t.rsp

/-! Invariants. -/

/-- 10_state.md section 9, the four invariants, which the spec marks derived: every step keeps them. -/
def Obligations.StepKeepsStateInvariants : Prop :=
  ∀ s t : State, s.Inv → step s = .next t → t.Inv

/-- R22, R23, and 41_crc_engine.md section 6 for the bound of ACC: an open transaction stays of one width, and its
accumulator within that width. -/
def Obligations.StepKeepsOneWidth : Prop :=
  ∀ s t : State, s.OneWidth → step s = .next t → t.OneWidth

/-- The reset values (R190) under any configuration meet the invariants of 10_state.md section 9. -/
def Obligations.PowerUpMeetsStateInvariants : Prop :=
  ∀ s : State, s.PowerUp → s.Inv ∧ s.OneWidth ∧ s.rsp = none ∧ s.status = .idle

/-- 10_state.md section 9: the invariants hold in every reachable state. -/
def Obligations.ReachableStatesMeetInvariants : Prop :=
  ∀ s : State, Reachable s → s.Inv ∧ s.OneWidth
end

