-- ==== Sys2Proof/Laws/Decode.lean ====
section
/-! SUPPORT. The small lemmas of the request word, the decoder and the encoder. -/

namespace Sys2Proof.Laws

/-! A request word is its three fields. -/

@[simp] theorem reqOp_requestWord (op : BitVec 2) (n : BitVec 8) (d : Word) : reqOp (requestWord op n d) = op := by
  apply BitVec.eq_of_getLsbD_eq
  intro j hj
  simp only [reqOp, requestWord, BitVec.getLsbD_extractLsb', BitVec.getLsbD_append]
  have h1 : ¬ 40 + j < 32 := by omega
  have h2 : ¬ 40 + j - 32 < 8 := by omega
  have h3 : 40 + j - 32 - 8 = j := by omega
  simp only [hj, h1, h2, h3, decide_true, Bool.true_and, if_false]

@[simp] theorem reqWidth_requestWord (op : BitVec 2) (n : BitVec 8) (d : Word) :
    reqWidth (requestWord op n d) = n := by
  apply BitVec.eq_of_getLsbD_eq
  intro j hj
  simp only [reqWidth, requestWord, BitVec.getLsbD_extractLsb', BitVec.getLsbD_append]
  have h1 : ¬ 32 + j < 32 := by omega
  have h2 : 32 + j - 32 = j := by omega
  simp only [hj, h1, h2, decide_true, Bool.true_and, if_false, if_true]

@[simp] theorem reqData_requestWord (op : BitVec 2) (n : BitVec 8) (d : Word) :
    reqData (requestWord op n d) = d := by
  apply BitVec.eq_of_getLsbD_eq
  intro j hj
  simp only [reqData, requestWord, BitVec.getLsbD_extractLsb', BitVec.getLsbD_append, Nat.zero_add]
  simp only [hj, decide_true, Bool.true_and, if_true]

theorem requestWord_of_fields (w : ReqWord) : requestWord (reqOp w) (reqWidth w) (reqData w) = w := by
  apply BitVec.eq_of_getLsbD_eq
  intro j hj
  rw [requestWord, BitVec.getLsbD_append, BitVec.getLsbD_append]
  simp only [reqOp, reqWidth, reqData, BitVec.getLsbD_extractLsb']
  by_cases h1 : j < 32
  · simp [h1]
  · by_cases h2 : j < 40
    · have h3 : j - 32 < 8 := by omega
      have h4 : 32 + (j - 32) = j := by omega
      simp [h1, h3, h4]
    · have h3 : ¬ (j - 32 < 8) := by omega
      have h4 : j - 32 - 8 < 2 := by omega
      have h5 : 40 + (j - 32 - 8) = j := by omega
      simp [h1, h3, h4, h5]

/-- The mask of the rows tried first keeps `op` and `width` (R84). -/
theorem requestWord_and_fields (op : BitVec 2) (n : BitVec 8) (d : Word) :
    requestWord op n d &&& 0x3FF00000000#42 = requestWord op n 0#32 := by
  have h : (0x3FF00000000#42 : ReqWord) = requestWord (BitVec.allOnes 2) (BitVec.allOnes 8) 0#32 := by decide
  rw [h, requestWord, requestWord, requestWord, BitVec.and_append, BitVec.and_append]
  simp only [BitVec.and_allOnes, BitVec.and_zero]

/-- The mask of the other rows keeps `op` (R84). -/
theorem requestWord_and_op (op : BitVec 2) (n : BitVec 8) (d : Word) :
    requestWord op n d &&& 0x30000000000#42 = requestWord op 0#8 0#32 := by
  have h : (0x30000000000#42 : ReqWord) = requestWord (BitVec.allOnes 2) 0#8 0#32 := by decide
  rw [h, requestWord, requestWord, requestWord, BitVec.and_append, BitVec.and_append]
  simp only [BitVec.and_allOnes, BitVec.and_zero]

/-! The decoder and the encoder on a word given by its fields. -/

theorem decode_requestWord (op : BitVec 2) (n : BitVec 8) (d : Word) :
    decode (requestWord op n d) =
      if op = 0b10#2 then .byte (d.extractLsb' 0 8)
      else if op = 0b11#2 then .read
      else if op = 0b00#2 then revInstr n d
      else startInstr n d := by
  unfold decode reqByte
  rw [reqOp_requestWord, reqWidth_requestWord, reqData_requestWord]

/-- A `width` field is that of one legal width, or none (R74, R76). -/
theorem widthOfField_cases (n : BitVec 8) :
    (∃ w, widthOfField n = some w ∧ n = BitVec.ofNat 8 w.bits) ∨
    (widthOfField n = none ∧ legalWidthField n = false) := by
  revert n; decide

theorem encode_revInstr (n : BitVec 8) (v : Word) : encode (revInstr n v) = requestWord 0b00#2 n v := by
  unfold revInstr
  obtain ⟨w, h, rfl⟩ | ⟨h, -⟩ := widthOfField_cases n <;> rw [h]
  · cases w <;> rfl
  · rfl

theorem encode_startInstr (n : BitVec 8) (iv : Word) : encode (startInstr n iv) = requestWord 0b01#2 n iv := by
  unfold startInstr
  obtain ⟨w, h, rfl⟩ | ⟨h, -⟩ := widthOfField_cases n <;> rw [h]
  · cases w <;> rfl
  · rfl

end Sys2Proof.Laws
end

