-- ==== Sys2Proof/Laws/State.lean ====
section
/-! SUPPORT. Every field after every update of the state, one lemma each. -/

namespace Sys2Proof.Machine

variable (s : State)

@[simp] theorem State.setAcc_acc (a : Word) : (s.setAcc a).acc = a := rfl
@[simp] theorem State.setAcc_rpoly (a : Word) : (s.setAcc a).rpoly = s.rpoly := rfl
@[simp] theorem State.setAcc_mask (a : Word) : (s.setAcc a).mask = s.mask := rfl
@[simp] theorem State.setAcc_status (a : Word) : (s.setAcc a).status = s.status := rfl
@[simp] theorem State.setAcc_cfg (a : Word) : (s.setAcc a).cfg = s.cfg := rfl
@[simp] theorem State.setAcc_rsp (a : Word) : (s.setAcc a).rsp = s.rsp := rfl
@[simp] theorem State.setAcc_inputs (a : Word) : (s.setAcc a).inputs = s.inputs := rfl
@[simp] theorem State.setAcc_draws (a : Word) : (s.setAcc a).draws = s.draws := rfl

@[simp] theorem State.setElements_acc (a r m : Word) (st : Status) : (s.setElements a r m st).acc = a := rfl
@[simp] theorem State.setElements_rpoly (a r m : Word) (st : Status) : (s.setElements a r m st).rpoly = r := rfl
@[simp] theorem State.setElements_mask (a r m : Word) (st : Status) : (s.setElements a r m st).mask = m := rfl
@[simp] theorem State.setElements_status (a r m : Word) (st : Status) : (s.setElements a r m st).status = st := rfl
@[simp] theorem State.setElements_cfg (a r m : Word) (st : Status) : (s.setElements a r m st).cfg = s.cfg := rfl
@[simp] theorem State.setElements_rsp (a r m : Word) (st : Status) : (s.setElements a r m st).rsp = s.rsp := rfl
@[simp] theorem State.setElements_inputs (a r m : Word) (st : Status) : (s.setElements a r m st).inputs = s.inputs := rfl
@[simp] theorem State.setElements_draws (a r m : Word) (st : Status) : (s.setElements a r m st).draws = s.draws := rfl

@[simp] theorem State.respond_acc (st : Status) (r : Word) : (s.respond st r).acc = s.acc := rfl
@[simp] theorem State.respond_rpoly (st : Status) (r : Word) : (s.respond st r).rpoly = s.rpoly := rfl
@[simp] theorem State.respond_mask (st : Status) (r : Word) : (s.respond st r).mask = s.mask := rfl
@[simp] theorem State.respond_status (st : Status) (r : Word) : (s.respond st r).status = s.status := rfl
@[simp] theorem State.respond_cfg (st : Status) (r : Word) : (s.respond st r).cfg = s.cfg := rfl
@[simp] theorem State.respond_rsp (st : Status) (r : Word) : (s.respond st r).rsp = some (responseWord st r) := rfl
@[simp] theorem State.respond_inputs (st : Status) (r : Word) : (s.respond st r).inputs = s.inputs := rfl
@[simp] theorem State.respond_draws (st : Status) (r : Word) : (s.respond st r).draws = s.draws := rfl

@[simp] theorem State.respondOut_acc : (s.respondOut).acc = s.acc := rfl
@[simp] theorem State.respondOut_rpoly : (s.respondOut).rpoly = s.rpoly := rfl
@[simp] theorem State.respondOut_mask : (s.respondOut).mask = s.mask := rfl
@[simp] theorem State.respondOut_status : (s.respondOut).status = s.status := rfl
@[simp] theorem State.respondOut_cfg : (s.respondOut).cfg = s.cfg := rfl
@[simp] theorem State.respondOut_rsp : (s.respondOut).rsp = some (responseWord s.status s.out) := rfl
@[simp] theorem State.respondOut_inputs : (s.respondOut).inputs = s.inputs := rfl
@[simp] theorem State.respondOut_draws : (s.respondOut).draws = s.draws := rfl

@[simp] theorem State.noResponse_acc : (s.noResponse).acc = s.acc := rfl
@[simp] theorem State.noResponse_rpoly : (s.noResponse).rpoly = s.rpoly := rfl
@[simp] theorem State.noResponse_mask : (s.noResponse).mask = s.mask := rfl
@[simp] theorem State.noResponse_status : (s.noResponse).status = s.status := rfl
@[simp] theorem State.noResponse_cfg : (s.noResponse).cfg = s.cfg := rfl
@[simp] theorem State.noResponse_rsp : (s.noResponse).rsp = none := rfl
@[simp] theorem State.noResponse_inputs : (s.noResponse).inputs = s.inputs := rfl
@[simp] theorem State.noResponse_draws : (s.noResponse).draws = s.draws := rfl

@[simp] theorem State.countDraw_acc : (s.countDraw).acc = s.acc := rfl
@[simp] theorem State.countDraw_rpoly : (s.countDraw).rpoly = s.rpoly := rfl
@[simp] theorem State.countDraw_mask : (s.countDraw).mask = s.mask := rfl
@[simp] theorem State.countDraw_status : (s.countDraw).status = s.status := rfl
@[simp] theorem State.countDraw_cfg : (s.countDraw).cfg = s.cfg := rfl
@[simp] theorem State.countDraw_rsp : (s.countDraw).rsp = s.rsp := rfl
@[simp] theorem State.countDraw_inputs : (s.countDraw).inputs = s.inputs := rfl
@[simp] theorem State.countDraw_draws : (s.countDraw).draws = s.draws + 1 := rfl

@[simp] theorem State.setInputs_acc (q : List Pins) : (s.setInputs q).acc = s.acc := rfl
@[simp] theorem State.setInputs_rpoly (q : List Pins) : (s.setInputs q).rpoly = s.rpoly := rfl
@[simp] theorem State.setInputs_mask (q : List Pins) : (s.setInputs q).mask = s.mask := rfl
@[simp] theorem State.setInputs_status (q : List Pins) : (s.setInputs q).status = s.status := rfl
@[simp] theorem State.setInputs_cfg (q : List Pins) : (s.setInputs q).cfg = s.cfg := rfl
@[simp] theorem State.setInputs_rsp (q : List Pins) : (s.setInputs q).rsp = s.rsp := rfl
@[simp] theorem State.setInputs_inputs (q : List Pins) : (s.setInputs q).inputs = q := rfl
@[simp] theorem State.setInputs_draws (q : List Pins) : (s.setInputs q).draws = s.draws := rfl

@[simp] theorem State.setAcc_out_of_ok (a : Word) (h : s.status = .ok) : (s.setAcc a).out = a &&& s.mask := by
  simp [State.out, h]

theorem State.out_of_ok (h : s.status = .ok) : s.out = s.acc &&& s.mask := if_pos h

theorem State.out_of_not_ok (h : s.status ≠ .ok) : s.out = 0#32 := if_neg h

end Sys2Proof.Machine
end

