-- ==== Sys2Proof/Laws/Ops.lean ====
section
/-! SUPPORT. What each shared operation does, said once: the Bit Reverser by bits, the feedback loop under a mask, and
the effect of REV, START, BYTE and the failures. -/

namespace Sys2Proof.Machine

/-! The widths. -/

theorem maskOf_getLsbD (w : Width) (j : Nat) : (maskOf w).getLsbD j = decide (j < w.bits) := by
  by_cases h : j < 32
  · revert j; cases w <;> decide
  · have : w.bits ≤ 32 := by cases w <;> decide
    rw [BitVec.getLsbD_of_ge _ _ (by omega)]
    simp; omega

/-- The test of R122 fails exactly up to the mask, at every width. -/
theorem initOutOfRange_iff (w : Width) (iv : Word) : initOutOfRange w iv = true ↔ maskOf w < iv := by
  cases w
  · simp [initOutOfRange]
  · simp [initOutOfRange]
  · simp [initOutOfRange]
  · simp only [initOutOfRange, maskOf, BitVec.lt_def]
    simp; omega

/-- A value within the width is what the mask leaves of it. -/
theorem and_maskOf_of_le {w : Width} {v : Word} (h : v ≤ maskOf w) : v &&& maskOf w = v := by
  have hm : (maskOf w).toNat = 2 ^ w.bits - 1 := by cases w <;> rfl
  have hp : 0 < 2 ^ w.bits := Nat.two_pow_pos _
  rw [BitVec.le_def, hm] at h
  apply BitVec.eq_of_toNat_eq
  rw [BitVec.toNat_and, hm, Nat.and_two_pow_sub_one_eq_mod, Nat.mod_eq_of_lt (by omega)]

theorem and_maskOf_le (w : Width) (v : Word) : v &&& maskOf w ≤ maskOf w := by
  rw [BitVec.le_def, BitVec.toNat_and]
  exact Nat.and_le_right

/-! The Bit Reverser. -/

theorem one_shiftLeft_getLsbD (k j : Nat) : (1#32 <<< k).getLsbD j = (decide (j < 32) && decide (j = k)) := by
  rw [BitVec.getLsbD_shiftLeft, BitVec.getLsbD_one]
  by_cases h : j < 32
  · simp only [h, decide_true, Bool.true_and]
    by_cases e : j = k
    · simp [e]
    · simp [e]; omega
  · simp [h]

theorem rev32_loop_getLsbD (v : Word) (n : Nat) (hn : n ≤ 32) (j : Nat) :
    ((List.range n).foldl (fun a i => if v.getLsbD i then a ||| (1#32 <<< (31 - i)) else a) 0#32).getLsbD j =
      (decide (j < 32) && decide (31 - j < n) && v.getLsbD (31 - j)) := by
  induction n with
  | zero => simp
  | succ n ih =>
    rw [List.range_succ, List.foldl_append, List.foldl_cons, List.foldl_nil]
    have ih := ih (by omega)
    by_cases hj : j < 32
    · have hlt : (31 - j < n + 1) ↔ (31 - j < n ∨ 31 - j = n) := by omega
      have heq : (j = 31 - n) ↔ (31 - j = n) := by omega
      split <;> rename_i hv
      · rw [BitVec.getLsbD_or, ih, one_shiftLeft_getLsbD]
        by_cases he : 31 - j = n
        · simp [hj, heq, he, hv]
        · simp [hj, heq, he, hlt]
      · rw [ih]
        by_cases he : 31 - j = n
        · simp [he, hv]
        · simp [he, hlt]
    · rw [BitVec.getLsbD_of_ge _ _ (by omega)]
      simp [hj]

/-- `rev32` by bits (R100). -/
theorem rev32_getLsbD (v : Word) (j : Nat) :
    (rev32 v).getLsbD j = (decide (j < 32) && v.getLsbD (31 - j)) := by
  rw [rev32, rev32_loop_getLsbD v 32 (by omega)]
  have : 31 - j < 32 := by omega
  simp [this]

/-- The contract of the Bit Reverser by bits (R103). -/
theorem reverse_getLsbD (v : Word) (w : Width) (j : Nat) :
    (reverse v w).getLsbD j = (decide (j < w.bits) && v.getLsbD (w.bits - 1 - j)) := by
  have hw : w.bits ≤ 32 := by cases w <;> decide
  rw [reverse, BitVec.getLsbD_ushiftRight, rev32_getLsbD, shiftOf]
  by_cases h : j < w.bits
  · have h1 : 32 - w.bits + j < 32 := by omega
    have h2 : 31 - (32 - w.bits + j) = w.bits - 1 - j := by omega
    simp [h, h1, h2]
  · have h1 : ¬ 32 - w.bits + j < 32 := by omega
    simp [h, h1]

/-- The reversal has no bit above the width (R104). -/
theorem reverse_and_maskOf (v : Word) (w : Width) : reverse v w &&& maskOf w = reverse v w := by
  apply BitVec.eq_of_getLsbD_eq
  intro j _
  rw [BitVec.getLsbD_and, reverse_getLsbD, maskOf_getLsbD]
  by_cases h : j < w.bits <;> simp [h]

/-! The feedback loop. -/

theorem xor_and_of_and {a b m : Word} (ha : a &&& m = a) (hb : b &&& m = b) : (a ^^^ b) &&& m = a ^^^ b := by
  apply BitVec.eq_of_getLsbD_eq
  intro j _
  have h1 := congrArg (BitVec.getLsbD · j) ha
  have h2 := congrArg (BitVec.getLsbD · j) hb
  simp only [BitVec.getLsbD_and] at h1 h2
  rw [BitVec.getLsbD_and, BitVec.getLsbD_xor]
  cases h : m.getLsbD j
  · rw [h, Bool.and_false] at h1 h2
    simp [← h1, ← h2]
  · simp

theorem crcBit_and_maskOf {w : Width} {a r : Word} (ha : a &&& maskOf w = a) (hr : r &&& maskOf w = r) :
    crcBit a r &&& maskOf w = crcBit a r := by
  have hs : (a >>> 1) &&& maskOf w = a >>> 1 := by
    apply BitVec.eq_of_getLsbD_eq
    intro j _
    have h1 := congrArg (BitVec.getLsbD · (1 + j)) ha
    simp only [BitVec.getLsbD_and, maskOf_getLsbD] at h1
    rw [BitVec.getLsbD_and, BitVec.getLsbD_ushiftRight, maskOf_getLsbD]
    by_cases h : j < w.bits
    · simp [h]
    · have h2 : ¬ 1 + j < w.bits := by omega
      simp only [h2, decide_false, Bool.and_false] at h1
      simp [h, ← h1]
  unfold crcBit
  split
  · exact xor_and_of_and hs hr
  · exact hs

theorem crcIterate_and_maskOf {w : Width} {r : Word} (hr : r &&& maskOf w = r) (n : Nat) {a : Word}
    (ha : a &&& maskOf w = a) : crcIterate r n a &&& maskOf w = crcIterate r n a := by
  induction n generalizing a with
  | zero => exact ha
  | succ n ih => exact ih (crcBit_and_maskOf ha hr)

/-- A byte lies within every width. -/
theorem zext32_and_maskOf (b : Byte) (w : Width) : zext32 b &&& maskOf w = zext32 b := by
  apply BitVec.eq_of_getLsbD_eq
  intro j hj
  have hw : 8 ≤ w.bits := by cases w <;> decide
  rw [BitVec.getLsbD_and, maskOf_getLsbD, zext32, BitVec.getLsbD_setWidth]
  by_cases h : j < w.bits
  · simp [h]
  · have : b.getLsbD j = false := BitVec.getLsbD_of_ge _ _ (by omega)
    simp [h, this]

theorem crcByte_and_maskOf {w : Width} {a r : Word} (ha : a &&& maskOf w = a) (hr : r &&& maskOf w = r) (b : Byte) :
    crcByte a r b &&& maskOf w = crcByte a r b :=
  crcIterate_and_maskOf hr 8 (xor_and_of_and ha (zext32_and_maskOf b w))

theorem crcBytes_append (a r : Word) (s t : List Byte) :
    crcBytes a r (s ++ t) = crcBytes (crcBytes a r s) r t := by
  induction s generalizing a with
  | nil => rfl
  | cons b s ih => exact ih _

/-! The effects. -/

/-- A failure writes the four elements and nothing else (R165). -/
theorem raiseFailure_eq (c : Status) (s : State) :
    raiseFailure c s = { s with acc := 0#32, rpoly := 0#32, mask := 0#32, status := c } := rfl

theorem startOp_of_fail {w : Width} {iv : Word} (h : initOutOfRange w iv = true) (s : State) :
    startOp w iv s = (raiseFailure .errInit s).respond .errInit 0#32 := by
  rw [startOp, if_pos h]; rfl

theorem startOp_of_pass {w : Width} {iv : Word} (h : initOutOfRange w iv = false) (s : State) :
    startOp w iv s =
      (s.setElements iv (reverse (polyOf s.cfg w) w) (maskOf w) .ok).respond .ok iv := by
  have hiv : iv ≤ maskOf w := by
    have := (initOutOfRange_iff w iv).not
    rw [h] at this
    simpa using this
  have hm := and_maskOf_of_le hiv
  rw [startOp, h]
  simp only [Bool.false_eq_true, if_false, loadTransaction, hm]
  rw [State.respondOut, State.out_of_ok _ rfl]
  simp [hm]

/-- START at a legal width fails or loads, and which of them is R122's test. -/
theorem startOp_cases (w : Width) (iv : Word) (s : State) :
    (maskOf w < iv ∧ startOp w iv s = (raiseFailure .errInit s).respond .errInit 0#32) ∨
    (iv ≤ maskOf w ∧ startOp w iv s =
      (s.setElements iv (reverse (polyOf s.cfg w) w) (maskOf w) .ok).respond .ok iv) := by
  cases h : initOutOfRange w iv
  · have := (initOutOfRange_iff w iv).not
    rw [h] at this
    exact .inr ⟨by simpa using this, startOp_of_pass h s⟩
  · exact .inl ⟨(initOutOfRange_iff w iv).mp h, startOp_of_fail h s⟩

theorem startIllegal_eq (s : State) :
    startIllegal s = (raiseFailure .errWidth s).respond .errWidth 0#32 := rfl

/-- BYTE folds its byte into the accumulator in a good transaction, and otherwise only responds (R137). -/
theorem byteOp_cases (b : Byte) (s : State) :
    (s.status = .ok ∧ byteOp b s =
      (s.setAcc (crcByte s.acc s.rpoly b)).respond .ok (crcByte s.acc s.rpoly b &&& s.mask)) ∨
    (s.status ≠ .ok ∧ byteOp b s = s.respond s.status 0#32) := by
  by_cases h : s.status = .ok
  · refine .inl ⟨h, ?_⟩
    rw [byteOp, if_pos h, State.respondOut, State.setAcc_out_of_ok _ _ h, State.setAcc_status, h]
  · refine .inr ⟨h, ?_⟩
    rw [byteOp, if_neg h, State.respondOut, State.out_of_not_ok _ h]

end Sys2Proof.Machine
end

