-- ==== Sys2Proof/Laws/PerInstr.lean ====
section
/-! SUPPORT. Statements for all operations, one lemma per constructor of `Instr`: the word the encoder writes meets its
row of the opcode table. -/

namespace Sys2Proof.Laws

/-- The operation's row is in the table, under its mnemonic, and its encoding meets that row (R84). -/
def EncodingMeetsRow.Statement (i : Instr) : Prop :=
  ∃ row ∈ opcodeTable, row.mnemonic = i.mnemonic ∧ encode i &&& row.mask = row.pattern

namespace EncodingMeetsRow

theorem rev8 (value : Word) : Statement (.rev8 value) :=
  ⟨⟨"REV.8", 0x3FF00000000#42, 0x00800000000#42⟩, by decide, rfl, requestWord_and_fields _ _ _⟩

theorem rev16 (value : Word) : Statement (.rev16 value) :=
  ⟨⟨"REV.16", 0x3FF00000000#42, 0x01000000000#42⟩, by decide, rfl, requestWord_and_fields _ _ _⟩

theorem rev24 (value : Word) : Statement (.rev24 value) :=
  ⟨⟨"REV.24", 0x3FF00000000#42, 0x01800000000#42⟩, by decide, rfl, requestWord_and_fields _ _ _⟩

theorem rev32 (value : Word) : Statement (.rev32 value) :=
  ⟨⟨"REV.32", 0x3FF00000000#42, 0x02000000000#42⟩, by decide, rfl, requestWord_and_fields _ _ _⟩

theorem start8 (iv : Word) : Statement (.start8 iv) :=
  ⟨⟨"START.8", 0x3FF00000000#42, 0x10800000000#42⟩, by decide, rfl, requestWord_and_fields _ _ _⟩

theorem start16 (iv : Word) : Statement (.start16 iv) :=
  ⟨⟨"START.16", 0x3FF00000000#42, 0x11000000000#42⟩, by decide, rfl, requestWord_and_fields _ _ _⟩

theorem start24 (iv : Word) : Statement (.start24 iv) :=
  ⟨⟨"START.24", 0x3FF00000000#42, 0x11800000000#42⟩, by decide, rfl, requestWord_and_fields _ _ _⟩

theorem start32 (iv : Word) : Statement (.start32 iv) :=
  ⟨⟨"START.32", 0x3FF00000000#42, 0x12000000000#42⟩, by decide, rfl, requestWord_and_fields _ _ _⟩

theorem byte (b : Byte) : Statement (.byte b) :=
  ⟨⟨"BYTE", 0x30000000000#42, 0x20000000000#42⟩, by decide, rfl, requestWord_and_op _ _ _⟩

theorem read : Statement .read :=
  ⟨⟨"READ", 0x30000000000#42, 0x30000000000#42⟩, by decide, rfl, requestWord_and_op _ _ _⟩

theorem revX (width : BitVec 8) (value : Word) : Statement (.revX width value) :=
  ⟨⟨"REV.x<n>", 0x30000000000#42, 0x00000000000#42⟩, by decide, rfl, requestWord_and_op _ _ _⟩

theorem startX (width : BitVec 8) (iv : Word) : Statement (.startX width iv) :=
  ⟨⟨"START.x<n>", 0x30000000000#42, 0x10000000000#42⟩, by decide, rfl, requestWord_and_op _ _ _⟩

end EncodingMeetsRow

end Sys2Proof.Laws
end

