-- ==== Sys2Proof/Laws/Step.lean ====
section
/-! SUPPORT. What one operation and one step can do, said once: the inversion lemmas later proofs cite in place of
unfolding `exec`, `fetch` and `step`. -/

namespace Sys2Proof.Machine

/-- What an operation does, by its shape: REV at a legal width, REV at another, START at a legal width, START at
another, BYTE, READ. -/
theorem exec_cases {i : Instr} {s t : State} (h : exec i s = .next t) :
    (∃ w v, t = revOp w v s ∧
      (i = .rev8 v ∧ w = .w8 ∨ i = .rev16 v ∧ w = .w16 ∨ i = .rev24 v ∧ w = .w24 ∨ i = .rev32 v ∧ w = .w32)) ∨
    (∃ n v, i = .revX n v ∧ t = revFree s) ∨
    (∃ w iv, t = startOp w iv s ∧
      (i = .start8 iv ∧ w = .w8 ∨ i = .start16 iv ∧ w = .w16 ∨ i = .start24 iv ∧ w = .w24 ∨
        i = .start32 iv ∧ w = .w32)) ∨
    (∃ n iv, i = .startX n iv ∧ t = startIllegal s) ∨
    (∃ b, i = .byte b ∧ t = byteOp b s) ∨
    (i = .read ∧ t = s.respondOut) := by
  cases i with
  | rev8 v => cases h; exact .inl ⟨.w8, v, rfl, .inl ⟨rfl, rfl⟩⟩
  | rev16 v => cases h; exact .inl ⟨.w16, v, rfl, .inr (.inl ⟨rfl, rfl⟩)⟩
  | rev24 v => cases h; exact .inl ⟨.w24, v, rfl, .inr (.inr (.inl ⟨rfl, rfl⟩))⟩
  | rev32 v => cases h; exact .inl ⟨.w32, v, rfl, .inr (.inr (.inr ⟨rfl, rfl⟩))⟩
  | revX n v => cases h; exact .inr (.inl ⟨n, v, rfl, rfl⟩)
  | start8 iv => cases h; exact .inr (.inr (.inl ⟨.w8, iv, rfl, .inl ⟨rfl, rfl⟩⟩))
  | start16 iv => cases h; exact .inr (.inr (.inl ⟨.w16, iv, rfl, .inr (.inl ⟨rfl, rfl⟩)⟩))
  | start24 iv => cases h; exact .inr (.inr (.inl ⟨.w24, iv, rfl, .inr (.inr (.inl ⟨rfl, rfl⟩))⟩))
  | start32 iv => cases h; exact .inr (.inr (.inl ⟨.w32, iv, rfl, .inr (.inr (.inr ⟨rfl, rfl⟩))⟩))
  | startX n iv => cases h; exact .inr (.inr (.inr (.inl ⟨n, iv, rfl, rfl⟩)))
  | byte b => cases h; exact .inr (.inr (.inr (.inr (.inl ⟨b, rfl, rfl⟩))))
  | read => cases h; exact .inr (.inr (.inr (.inr (.inr ⟨rfl, rfl⟩))))

/-- What an operation can do to the four elements: leave them, load a transaction within its width, fail, or fold a
byte into the accumulator of a good transaction. The rest of the state is as `exec_cases` says. -/
theorem exec_elements {i : Instr} {s t : State} (h : exec i s = .next t) :
    t.cfg = s.cfg ∧ t.inputs = s.inputs ∧
    (SameElements t s ∨
    (∃ (w : Width) (iv : Word), iv ≤ maskOf w ∧ t.acc = iv ∧ t.rpoly = reverse (polyOf s.cfg w) w ∧
      t.mask = maskOf w ∧ t.status = .ok) ∨
    (t.acc = 0#32 ∧ t.rpoly = 0#32 ∧ t.mask = 0#32 ∧ (t.status = .errWidth ∨ t.status = .errInit)) ∨
    (∃ b, s.status = .ok ∧ t.acc = crcByte s.acc s.rpoly b ∧ t.rpoly = s.rpoly ∧ t.mask = s.mask ∧
      t.status = .ok)) := by
  obtain ⟨w, v, rfl, -⟩ | ⟨n, v, -, rfl⟩ | ⟨w, iv, rfl, -⟩ | ⟨n, iv, -, rfl⟩ | ⟨b, -, rfl⟩ | ⟨-, rfl⟩ := exec_cases h
  · exact ⟨rfl, rfl, .inl ⟨rfl, rfl, rfl, rfl⟩⟩
  · exact ⟨rfl, rfl, .inl ⟨rfl, rfl, rfl, rfl⟩⟩
  · obtain ⟨-, e⟩ | ⟨hle, e⟩ := startOp_cases w iv s
    · rw [e]; exact ⟨rfl, rfl, .inr (.inr (.inl ⟨rfl, rfl, rfl, .inr rfl⟩))⟩
    · rw [e]; exact ⟨rfl, rfl, .inr (.inl ⟨w, iv, hle, rfl, rfl, rfl, rfl⟩)⟩
  · exact ⟨rfl, rfl, .inr (.inr (.inl ⟨rfl, rfl, rfl, .inl rfl⟩))⟩
  · obtain ⟨hok, e⟩ | ⟨-, e⟩ := byteOp_cases b s
    · rw [e]; exact ⟨rfl, rfl, .inr (.inr (.inr ⟨b, hok, rfl, rfl, rfl, hok⟩))⟩
    · rw [e]; exact ⟨rfl, rfl, .inl ⟨rfl, rfl, rfl, rfl⟩⟩
  · exact ⟨rfl, rfl, .inl ⟨rfl, rfl, rfl, rfl⟩⟩

/-- What the channel does with the next slot: no slot, reset, an accepted request, or nothing to accept. -/
theorem fetch_cases (s : State) :
    (s.inputs = [] ∧ fetch s = .finished s.noResponse) ∨
    (∃ p rest, s.inputs = p :: rest ∧ p.rst = true ∧
      fetch s = .finished (resetElements (s.setInputs rest)).noResponse) ∨
    (∃ p rest, s.inputs = p :: rest ∧ p.rst = false ∧ p.reqValid = true ∧
      fetch s = .operation (decode p.req) (s.setInputs rest)) ∨
    (∃ p rest, s.inputs = p :: rest ∧ p.rst = false ∧ p.reqValid = false ∧
      fetch s = .finished (s.setInputs rest).noResponse) := by
  unfold fetch
  split
  · exact .inl ⟨‹_›, rfl⟩
  · rename_i p rest h
    refine .inr ?_
    cases hr : p.rst
    · cases hv : p.reqValid
      · exact .inr (.inr ⟨p, rest, h, hr, hv, by simp [accepted, hv]⟩)
      · exact .inr (.inl ⟨p, rest, h, hr, hv, by simp [accepted, reqReady, hr, hv]⟩)
    · exact .inl ⟨p, rest, h, hr, by simp⟩

/-- What a step can do. -/
theorem step_cases {s t : State} (h : step s = .next t) :
    (s.inputs = [] ∧ t = s.noResponse) ∨
    (∃ p rest, s.inputs = p :: rest ∧ p.rst = true ∧ t = (resetElements (s.setInputs rest)).noResponse) ∨
    (∃ p rest, s.inputs = p :: rest ∧ p.rst = false ∧ p.reqValid = true ∧
      exec (decode p.req) (s.setInputs rest) = .next t) ∨
    (∃ p rest, s.inputs = p :: rest ∧ p.rst = false ∧ p.reqValid = false ∧ t = (s.setInputs rest).noResponse) := by
  unfold step at h
  obtain ⟨hi, e⟩ | ⟨p, rest, hi, hr, e⟩ | ⟨p, rest, hi, hr, hv, e⟩ | ⟨p, rest, hi, hr, hv, e⟩ := fetch_cases s <;>
    rw [e] at h
  · cases h; exact .inl ⟨hi, rfl⟩
  · cases h; exact .inr (.inl ⟨p, rest, hi, hr, rfl⟩)
  · exact .inr (.inr (.inl ⟨p, rest, hi, hr, hv, h⟩))
  · cases h; exact .inr (.inr (.inr ⟨p, rest, hi, hr, hv, rfl⟩))

/-- The host's run takes a step the machine takes. -/
theorem core_run_step {n : Nat} {s t : State} (h : step s = .next t) :
    Host.Core.run Sys2Proof.core (n + 1) s = Host.Core.run Sys2Proof.core n t := by
  simp only [Host.Core.run, show Sys2Proof.core.step s = .next t from h]

/-- Operations in sequence: the first, then the rest from where it ends. -/
theorem execAll_cons {i : Instr} {q : List Instr} {s t : State} (h : exec i s = .next t) :
    execAll (i :: q) s = execAll q t := by
  rw [execAll, h]; rfl

/-- A readable buffer is read as it stands (R138). -/
theorem readBuffer_eq_some {memRead : Nat → Option Byte} {buf : Nat} {bytes : List Byte}
    (h : ∀ i (hi : i < bytes.length), memRead (buf + i) = some bytes[i]) :
    readBuffer memRead buf bytes.length = some bytes := by
  induction bytes generalizing buf with
  | nil => rfl
  | cons b rest ih =>
    have h0 := h 0 (by simp)
    have h1 := ih (buf := buf + 1) fun i hi => by
      have := h (i + 1) (by simp; omega)
      simpa [Nat.add_assoc, Nat.add_comm 1 i] using this
    simp only [Nat.add_zero, List.getElem_cons_zero] at h0
    simp [readBuffer, h0, h1]

/-- A read buffer splits where its addresses do. -/
theorem readBuffer_add {memRead : Nat → Option Byte} {buf k n : Nat} {bytes : List Byte}
    (h : readBuffer memRead buf (k + n) = some bytes) :
    ∃ xs ys, bytes = xs ++ ys ∧ readBuffer memRead buf k = some xs ∧ readBuffer memRead (buf + k) n = some ys := by
  induction k generalizing buf bytes with
  | zero => exact ⟨[], bytes, rfl, rfl, by simpa using h⟩
  | succ k ih =>
    rw [show k + 1 + n = (k + n) + 1 by omega] at h
    simp only [readBuffer] at h
    cases h1 : memRead buf <;> cases h2 : readBuffer memRead (buf + 1) (k + n) <;> simp [h1, h2] at h
    obtain ⟨xs, ys, rfl, hx, hy⟩ := ih h2
    subst h
    exact ⟨_ :: xs, ys, rfl, by simp [readBuffer, h1, hx], by rw [← hy]; congr 1; omega⟩

end Sys2Proof.Machine
end

