-- ==== Sys2Proof/Tests/Slice0.lean ====
section
/-! SUPPORT. Tests whose expected results come from the spec (95_test_vectors.md unless another file is named), and, for
every statement with hypotheses, a witness that meets them. -/

namespace Sys2Proof.Tests

open Sys2Proof.Machine Sys2Proof.Claims

/-! ## Helpers -/

/-- The state an outcome goes on from. -/
def nextOf : Host.Outcome State Fault Refusal → Option State
  | .next s => some s
  | .fault _ => none
  | .refused _ => none

/-- The response of an outcome, if there is a next state. -/
def rspOf (o : Host.Outcome State Fault Refusal) : Option (Option RspWord) := (nextOf o).map State.rsp

/-- The four elements of an outcome. -/
def elementsOf (o : Host.Outcome State Fault Refusal) : Option (Word × Word × Word × Status) :=
  (nextOf o).map fun s => (s.acc, s.rpoly, s.mask, s.status)

/-- Reset, with this word requested in the next slot. -/
def asked (w : ReqWord) : State := { State.reset with inputs := [Pins.request w] }

/-- An open transaction of width 8 at the default polynomial, with accumulator `a`. -/
def open8 (a : Word) : State := { State.reset with acc := a, rpoly := 0x8C#32, mask := 0xFF#32, status := .ok }

/-- A state after a failed START. -/
def failed (st : Status) : State := { State.reset with status := st }

/-- "123456789" in ASCII. -/
def digits : List Byte := [0x31, 0x32, 0x33, 0x34, 0x35, 0x36, 0x37, 0x38, 0x39]

/-- A caller's memory whose byte at 100 is 0x01 and at 101 is 0x02; nothing else is readable. -/
def twoBytes (a : Nat) : Option Byte := if a = 100 then some 0x01#8 else if a = 101 then some 0x02#8 else none

/-! ## Well-formedness: the illegal-width forms carry no legal width (30_encoding.md R74, R76) -/

theorem test_wellFormed_refuses_revX_legal :
    [0x08#8, 0x10#8, 0x18#8, 0x20#8].all (fun n => !(Instr.revX n 1#32).wellFormed) = true := by decide
theorem test_wellFormed_refuses_startX_legal :
    [0x08#8, 0x10#8, 0x18#8, 0x20#8].all (fun n => !(Instr.startX n 1#32).wellFormed) = true := by decide
theorem test_wellFormed_accepts_illegal_widths :
    [0#8, 7#8, 9#8, 31#8, 33#8, 255#8].all
      (fun n => (Instr.revX n 1#32).wellFormed && (Instr.startX n 1#32).wellFormed) = true := by decide

/-! ## Decoding: every constructor, by a word of the spec -/

theorem test_decode_rev8 : decode 0x00800000031#42 = .rev8 0x31#32 := by decide
theorem test_decode_rev16 : decode 0x01000008005#42 = .rev16 0x8005#32 := by decide
theorem test_decode_rev24 : decode 0x0180000065B#42 = .rev24 0x65B#32 := by decide
theorem test_decode_rev32 : decode 0x02004C11DB7#42 = .rev32 0x04C11DB7#32 := by decide
theorem test_decode_start8 : decode 0x10800000100#42 = .start8 0x100#32 := by decide
theorem test_decode_start16 : decode 0x1100000FFFF#42 = .start16 0xFFFF#32 := by decide
theorem test_decode_start24 : decode 0x11801000000#42 = .start24 0x1000000#32 := by decide
theorem test_decode_start32 : decode 0x120FFFFFFFF#42 = .start32 0xFFFFFFFF#32 := by decide
theorem test_decode_byte_ignored_bits : decode 0x2ABDEADBE01#42 = .byte 0x01#8 := by decide
theorem test_decode_read_ignored_bits : decode 0x3FFFFFFFFFF#42 = .read := by decide
theorem test_decode_revX : decode 0x000FFFFFFFF#42 = .revX 0#8 0xFFFFFFFF#32 := by decide
theorem test_decode_startX : decode 0x11F00000000#42 = .startX 31#8 0#32 := by decide
/-- READ, bit by bit from its row: two ones and forty zeros. -/
theorem test_decode_read_bits : decode 0b110000000000000000000000000000000000000000#42 = .read := by decide
theorem test_decode_number_rejects : (decodeNumber (2 ^ 42)).toOption = none := by decide
theorem test_decode_number_top : (decodeNumber (2 ^ 42 - 1)).toOption = some .read := by decide
theorem test_decodeTableWord : decodeTableWord 48 0x10800000000 = some (.start8 0#32) := by decide

/-! ## Encoding (30_encoding.md R82) -/

theorem test_encode_start8 : encode (.start8 0#32) = 0x10800000000#42 := by decide
theorem test_encode_byte : encode (.byte 0x01#8) = 0x20000000001#42 := by decide
theorem test_encode_startX : encode (.startX 255#8 0#32) = 0x1FF00000000#42 := by decide

/-! ## The Bit Reverser (section 2) -/

theorem test_rev32_a : rev32 0x12345678#32 = 0x1E6A2C48#32 := by decide
theorem test_rev32_b : rev32 0xDEADBEEF#32 = 0xF77DB57B#32 := by decide
theorem test_reverse_w8 : reverse 0x12345678#32 .w8 = 0x1E#32 := by decide
theorem test_reverse_w16 : reverse 0xDEADBEEF#32 .w16 = 0xF77D#32 := by decide
theorem test_reverse_w24_shift_applied : reverse 0x65B#32 .w24 = 0x00DA6000#32 := by decide
theorem test_reverse_w32 : reverse 0x04C11DB7#32 .w32 = 0xEDB88320#32 := by decide
theorem test_reverse_ignores_high_bits : reverse 0x131#32 .w8 = 0x8C#32 := by decide

/-! ## The feedback functions (section 3) -/

theorem test_crcBit_logical_shift : crcBit 0x80000001#32 0xEDB88320#32 = 0xADB88320#32 := by decide
theorem test_crcBit_clear : crcBit 0x000000FE#32 0x8C#32 = 0x7F#32 := by decide
theorem test_crcByte_w8 : crcByte 0x5E#32 0x8C#32 0x02#8 = 0x78#32 := by decide
theorem test_crcByte_w16 : crcByte 0xFFFF#32 0xA001#32 0x41#8 = 0x707F#32 := by decide
theorem test_crcByte_w24 : crcByte 0x00FFFFFF#32 0x00DA6000#32 0x00#8 = 0x0093D3BF#32 := by decide
theorem test_crcByte_w32 : crcByte 0x12345678#32 0xEDB88320#32 0xDE#8 = 0x3FA7328B#32 := by decide

/-! ## Whole computations (section 4), on the CRC function -/

theorem test_crcBytes_w8 : crcBytes 0x00#32 0x8C#32 digits = 0xA1#32 := by decide +kernel
theorem test_crcBytes_w16 : crcBytes 0xFFFF#32 0xA001#32 digits = 0x4B37#32 := by decide +kernel
theorem test_crcBytes_w24 : crcBytes 0xABCDEF#32 0xDA6000#32 digits = 0xF9E2F9#32 := by decide +kernel
theorem test_crcBytes_w32 : crcBytes 0xFFFFFFFF#32 0xEDB88320#32 digits = 0x340BC6D9#32 := by decide +kernel
theorem test_override_polynomial :
    elementsOf (exec (.start16 0#32) { State.reset with cfg := { crc16Poly := 0x1021#32 } }) =
      some (0#32, 0x8408#32, 0xFFFF#32, .ok) := by decide

/-! ## One step of each operation (sections 2, 5 and 7) -/

theorem test_step_rev8 : rspOf (step (asked 0x008FFFFFF00#42)) = some (some 0x000000000#34) := by decide
theorem test_step_rev16 : rspOf (step (asked 0x01000008005#42)) = some (some 0x00000A001#34) := by decide
theorem test_step_rev24 : rspOf (step (asked 0x0180000065B#42)) = some (some 0x000DA6000#34) := by decide
theorem test_step_rev32 : rspOf (step (asked 0x02080000000#42)) = some (some 0x000000001#34) := by decide
/-- REV.x7: the elements as they were; the result is free and not tested. -/
theorem test_step_revX : elementsOf (step (asked 0x00700000001#42)) = some (0#32, 0#32, 0#32, .idle) := by decide
theorem test_step_start8 :
    elementsOf (step (asked 0x10800000000#42)) = some (0#32, 0x8C#32, 0xFF#32, .ok) := by decide
theorem test_step_start8_fails : rspOf (step (asked 0x10800000100#42)) = some (some 0x200000000#34) := by decide
theorem test_step_start16 : rspOf (step (asked 0x1100000FFFF#42)) = some (some 0x00000FFFF#34) := by decide
theorem test_step_start16_fails :
    elementsOf (step (asked 0x11000010000#42)) = some (0#32, 0#32, 0#32, .errInit) := by decide
theorem test_step_start24 :
    elementsOf (step (asked 0x11800FFFFFF#42)) = some (0xFFFFFF#32, 0xDA6000#32, 0xFFFFFF#32, .ok) := by decide
theorem test_step_start24_fails : rspOf (step (asked 0x11801000000#42)) = some (some 0x200000000#34) := by decide
theorem test_step_start32 :
    elementsOf (step (asked 0x120FFFFFFFF#42)) = some (0xFFFFFFFF#32, 0xEDB88320#32, 0xFFFFFFFF#32, .ok) := by
  decide
theorem test_step_startX_width_first : rspOf (step (asked 0x10700000100#42)) = some (some 0x100000000#34) := by
  decide
theorem test_exec_byte : rspOf (exec (.byte 0x01#8) (open8 0#32)) = some (some 0x00000005E#34) := by decide
theorem test_step_byte_idle : rspOf (step (asked 0x20000000031#42)) = some (some 0x300000000#34) := by decide
theorem test_exec_read : rspOf (exec .read (open8 0x78#32)) = some (some 0x000000078#34) := by decide
theorem test_step_read_idle : rspOf (step (asked 0x30000000000#42)) = some (some 0x300000000#34) := by decide

/-! ## The channel (30_encoding.md R80, 70_reset_and_hazards.md R190, R192) -/

theorem test_reset_event :
    nextOf (step { open8 0x5E#32 with rsp := some 0x00000005E#34, inputs := [Pins.reset] }) = some State.reset := by
  decide
theorem test_reset_drops_request :
    nextOf (step { open8 0x5E#32 with inputs := [{ rst := true, reqValid := true, req := 0x20000000001#42 }] }) =
      some State.reset := by decide
theorem test_idle_slot : nextOf (step { open8 0x5E#32 with inputs := [Pins.idle] }) = some (open8 0x5E#32) := by decide
theorem test_withFetchWord :
    rspOf (step (State.reset.withFetchWord 48 0x10800000100)) = some (some 0x200000000#34) := by decide
theorem test_compute_refuses :
    (match compute twoBytes 0#32 8#8 100 3#32 State.reset with
      | .refused .bufferNotReadable => true
      | _ => false) = true := by decide

/-! ## Witnesses: the hypotheses of each statement are met -/

theorem witness_RevRespondsReversalOfLowBits :
    (0x00800000031#42 : ReqWord) &&& 0x3FF00000000#42 = 0x00800000000#42 ∧
    (0x01000008005#42 : ReqWord) &&& 0x3FF00000000#42 = 0x01000000000#42 ∧
    (0x0180000065B#42 : ReqWord) &&& 0x3FF00000000#42 = 0x01800000000#42 ∧
    (0x02004C11DB7#42 : ReqWord) &&& 0x3FF00000000#42 = 0x02000000000#42 := by decide

theorem witness_RevIllegalWidthRespondsFreeValue :
    (((0x00000000001#42 : ReqWord).extractLsb' 40 2 = 0#2) ∧ IllegalWidth ((0x00000000001#42 : ReqWord).extractLsb' 32 8)) ∧
    (((0x00700000001#42 : ReqWord).extractLsb' 40 2 = 0#2) ∧ IllegalWidth ((0x00700000001#42 : ReqWord).extractLsb' 32 8)) ∧
    (((0x00900000001#42 : ReqWord).extractLsb' 40 2 = 0#2) ∧ IllegalWidth ((0x00900000001#42 : ReqWord).extractLsb' 32 8)) ∧
    (((0x02100000001#42 : ReqWord).extractLsb' 40 2 = 0#2) ∧ IllegalWidth ((0x02100000001#42 : ReqWord).extractLsb' 32 8)) ∧
    (((0x0FF00000001#42 : ReqWord).extractLsb' 40 2 = 0#2) ∧ IllegalWidth ((0x0FF00000001#42 : ReqWord).extractLsb' 32 8)) := by decide

theorem witness_ReverseOfOneBit : (31 < 32 ∧ 31 < Width.w32.bits) ∧ (8 < 32 ∧ ¬ 8 < Width.w8.bits) := by decide

theorem witness_StartBelow32LoadsOrFails :
    ((0x108000000FF#42 : ReqWord) &&& 0x3FF00000000#42 = 0x10800000000#42 ∧
      (0x1100000FFFF#42 : ReqWord) &&& 0x3FF00000000#42 = 0x11000000000#42 ∧
      (0x11800FFFFFF#42 : ReqWord) &&& 0x3FF00000000#42 = 0x11800000000#42) ∧
    (0xFF#32 ≤ 0x000000FF#32 ∧ 0xFFFF#32 ≤ 0x0000FFFF#32 ∧ 0xFFFFFF#32 ≤ 0x00FFFFFF#32) ∧
    (0x000000FF#32 < 0x100#32 ∧ 0x0000FFFF#32 < 0x10000#32 ∧ 0x00FFFFFF#32 < 0x1000000#32) := by decide

theorem witness_Start32AlwaysLoads :
    (0x120FFFFFFFF#42 : ReqWord) &&& 0x3FF00000000#42 = 0x12000000000#42 := by decide

theorem witness_StartIllegalWidthFails :
    (((0x10000000000#42 : ReqWord).extractLsb' 40 2 = 1#2) ∧ IllegalWidth ((0x10000000000#42 : ReqWord).extractLsb' 32 8)) ∧
    (((0x10700000000#42 : ReqWord).extractLsb' 40 2 = 1#2) ∧ IllegalWidth ((0x10700000000#42 : ReqWord).extractLsb' 32 8)) ∧
    (((0x10900000000#42 : ReqWord).extractLsb' 40 2 = 1#2) ∧ IllegalWidth ((0x10900000000#42 : ReqWord).extractLsb' 32 8)) ∧
    (((0x12100000000#42 : ReqWord).extractLsb' 40 2 = 1#2) ∧ IllegalWidth ((0x12100000000#42 : ReqWord).extractLsb' 32 8)) ∧
    (((0x1FF00000000#42 : ReqWord).extractLsb' 40 2 = 1#2) ∧ IllegalWidth ((0x1FF00000000#42 : ReqWord).extractLsb' 32 8)) := by decide

theorem witness_PolynomialBitsAboveWidthHaveNoEffect :
    FieldOf 8#8 .w8 ∧
    polyOf State.reset.cfg .w8 &&& maskOf .w8 =
      polyOf { State.reset with cfg := { crc8Poly := 0x131#32 } }.cfg .w8 &&& maskOf .w8 ∧
    ∃ t t', exec (startInstr 8#8 0#32) State.reset = .next t ∧
      exec (startInstr 8#8 0#32) { State.reset with cfg := { crc8Poly := 0x131#32 } } = .next t' :=
  ⟨by decide, by decide, _, _, rfl, rfl⟩

theorem witness_FailuresAreRaisedByStartOnly :
    (isStart (.byte 1#8) = false ∧ ∃ t, exec (.byte 1#8) (open8 0#32) = .next t) ∧
    (isStart (.startX 7#8 0#32) = true ∧ ∃ t, exec (.startX 7#8 0#32) (open8 0#32) = .next t) ∧
    (isStart (.start8 0x100#32) = true ∧ ∃ t, exec (.start8 0x100#32) (open8 0#32) = .next t) :=
  ⟨⟨rfl, _, rfl⟩, ⟨rfl, _, rfl⟩, rfl, _, rfl⟩

theorem witness_ByteFoldsEightIterations :
    (0x2ABDEADBE01#42 : ReqWord) &&& 0x30000000000#42 = 0x20000000000#42 ∧ (open8 0#32).status = .ok ∧
    ((failed .errWidth).status ≠ .ok ∧ CodeIs (failed .errWidth).status 1#2) ∧
    ((failed .errInit).status ≠ .ok ∧ CodeIs (failed .errInit).status 2#2) ∧
    ((failed .idle).status ≠ .ok ∧ CodeIs (failed .idle).status 3#2) := by decide

theorem witness_ReadRespondsStatusAndResult :
    (0x3FFFFFFFFFF#42 : ReqWord) &&& 0x30000000000#42 = 0x30000000000#42 ∧ CodeIs (open8 0#32).status 0#2 ∧
    CodeIs (failed .errWidth).status 1#2 ∧ CodeIs (failed .errInit).status 2#2 ∧
    CodeIs (failed .idle).status 3#2 := by decide

theorem witness_EveryResponseIsOfTheStateLeft :
    (isRev (.rev8 1#32) = true ∧ ∃ t, exec (.rev8 1#32) (open8 0#32) = .next t) ∧
    (isRev (.byte 1#8) = false ∧ ∃ t, exec (.byte 1#8) (open8 0#32) = .next t ∧ CodeIs t.status 0#2) :=
  ⟨⟨rfl, _, rfl⟩, rfl, _, rfl, by decide⟩

theorem witness_AccessTableFrame :
    (isRev (.rev32 1#32) = true ∧ ∃ t, exec (.rev32 1#32) (open8 0#32) = .next t) ∧
    (∃ t, exec .read (open8 0#32) = .next t) ∧
    ((failed .errInit).status ≠ .ok ∧ ∃ t, exec (.byte 1#8) (failed .errInit) = .next t) ∧
    ((∀ n v, Instr.start8 0#32 ≠ .revX n v) ∧ ∃ t, exec (.start8 0#32) (open8 0#32) = .next t) :=
  ⟨⟨rfl, _, rfl⟩, ⟨_, rfl⟩, ⟨by decide, _, rfl⟩, nofun, _, rfl⟩

theorem witness_OnlyStartAndResetWriteStatus :
    (∃ t, step { open8 0#32 with inputs := [Pins.reset] } = .next t ∧ t.status ≠ (open8 0#32).status) ∧
    (∃ t, step (asked 0x10800000000#42) = .next t ∧ t.status ≠ (asked 0x10800000000#42).status) :=
  ⟨⟨_, rfl, by decide⟩, _, rfl, by decide⟩

theorem witness_PolynomialAndMaskConstantInTransaction :
    (∃ t, step { open8 0#32 with inputs := [Pins.request 0x20000000001#42] } = .next t) ∧
    ∀ p rest, [Pins.request 0x20000000001#42] = p :: rest → ¬ ResetOrStart p := by
  refine ⟨⟨_, rfl⟩, ?_⟩
  rintro p rest ⟨⟩
  decide

theorem witness_StepKeepsConfiguration : ∃ t, step { open8 0#32 with inputs := [Pins.reset] } = .next t := ⟨_, rfl⟩

theorem witness_RevOperationsDoNotDisturbTheEngine :
    [Instr.byte 1#8, .read] = [Instr.rev8 1#32, .byte 1#8, .revX 7#8 1#32, .read].filter (fun i => !isRev i) ∧
    (∃ t, execAll [.rev8 1#32, .byte 1#8, .revX 7#8 1#32, .read] (open8 0#32) = .next t) ∧
    ∃ u, execAll [.byte 1#8, .read] (open8 0#32) = .next u := ⟨rfl, ⟨_, rfl⟩, _, rfl⟩

theorem witness_FailurePersistsUntilStart :
    (failed .errInit).status ≠ .ok ∧ (∀ i ∈ [Instr.byte 1#8, .read, .rev8 1#32], isStart i = false) ∧
    ∃ t, execAll [.byte 1#8, .read, .rev8 1#32] (failed .errInit) = .next t := ⟨by decide, by decide, _, rfl⟩

theorem witness_ResetEventWritesResetValues :
    { open8 0#32 with inputs := [Pins.reset] }.inputs = [Pins.reset] ∧ Pins.reset.rst = true ∧
    Pins.idle.rst = false := by decide

theorem witness_StepRunsTheDecodedRequest :
    (asked 0x30000000000#42).inputs = [Pins.request 0x30000000000#42] ∧
    (Pins.request 0x30000000000#42).rst = false ∧ (Pins.request 0x30000000000#42).reqValid = true := by decide

theorem witness_IdleSlotHoldsTheState :
    State.reset.inputs = [] ∧ { State.reset with inputs := [Pins.idle] }.inputs = [Pins.idle] ∧
    Pins.idle.rst = false ∧ Pins.idle.reqValid = false := by decide

theorem witness_ResponseExactlyToAcceptedRequest :
    (∃ t, step (asked 0x30000000000#42) = .next t) ∧
    (∃ t, step { State.reset with inputs := [Pins.reset] } = .next t) ∧
    ∃ t, step { State.reset with inputs := [Pins.idle] } = .next t := ⟨⟨_, rfl⟩, ⟨_, rfl⟩, _, rfl⟩

theorem witness_DecodeOfEncode :
    (Instr.rev8 0xFFFFFFFF#32).wellFormed = true ∧ (Instr.revX 255#8 0#32).wellFormed = true ∧
    (Instr.startX 0#8 0#32).wellFormed = true := by decide

theorem buffer_twoBytes : BufferIs twoBytes 100 2#32 [0x01#8, 0x02#8] := by decide

theorem witness_ComputeClosedForm :
    BufferIs twoBytes 100 2#32 [0x01#8, 0x02#8] ∧ BufferIs twoBytes 0 0#32 [] ∧
    (FieldOf 8#8 .w8 ∧ 0xFF#32 ≤ maskOf .w8) ∧ (FieldOf 16#8 .w16 ∧ 0xFFFF#32 ≤ maskOf .w16) ∧
    (FieldOf 24#8 .w24 ∧ 0xFFFFFF#32 ≤ maskOf .w24) ∧ (FieldOf 32#8 .w32 ∧ 0xFFFFFFFF#32 ≤ maskOf .w32) ∧
    (FieldOf 8#8 .w8 ∧ maskOf .w8 < 0x100#32) ∧ IllegalWidth 7#8 := by decide

theorem witness_ComputeRefusesUnreadableBuffer :
    ∃ i, i < (3#32).toNat ∧ twoBytes (100 + i) = none := ⟨2, by decide⟩

theorem witness_ResultHasNoBitAboveWidth :
    (FieldOf 8#8 .w8 ∧ ∃ t, compute twoBytes 0#32 8#8 100 2#32 State.reset = .next t) ∧
    (isRev .read = false ∧ ∃ t, exec .read (open8 0xFF#32) = .next t ∧ (t.status = .ok → t.mask = maskOf .w8)) :=
  ⟨⟨by decide, _, rfl⟩, rfl, _, rfl, by decide⟩

theorem witness_ZeroLengthAnswersInitialValue : FieldOf 24#8 .w24 ∧ 0xFFFFFF#32 ≤ maskOf .w24 := by decide

theorem witness_RequestStreamComputes :
    BufferIs twoBytes 100 2#32 [0x01#8, 0x02#8] ∧
    (∃ t, compute twoBytes 0#32 8#8 100 2#32 State.reset = .next t) ∧
    ∃ t, compute twoBytes 0#32 7#8 100 2#32 State.reset = .next t := ⟨buffer_twoBytes, ⟨_, rfl⟩, _, rfl⟩

theorem witness_TransactionDependsOnItsOwnOperandsOnly : (open8 0x5E#32).cfg = State.reset.cfg := by decide

theorem witness_ChainingAcrossTwoTransactions :
    FieldOf 8#8 .w8 ∧ (1#32).toNat + (1#32).toNat < 2 ^ 32 ∧ 0#32 ≤ maskOf .w8 ∧
    (∃ t, compute twoBytes 0#32 8#8 100 (1#32 + 1#32) State.reset = .next t) ∧
    ∃ u, compute twoBytes 0#32 8#8 100 1#32 State.reset = .next u ∧ u.rsp = some (0#2 ++ 0x5E#32) ∧
      ∃ v, compute twoBytes 0x5E#32 8#8 (100 + (1#32).toNat) 1#32 u = .next v :=
  ⟨by decide, by decide, by decide, ⟨_, rfl⟩, _, rfl, by decide, _, rfl⟩

theorem witness_StepKeepsStateInvariants :
    (open8 0x5E#32).Inv ∧ (failed .errWidth).Inv ∧
    { open8 0x5E#32 with inputs := [Pins.request 0x20000000001#42] }.Inv ∧
    ∃ t, step { open8 0x5E#32 with inputs := [Pins.request 0x20000000001#42] } = .next t :=
  ⟨by decide, by decide, by decide, _, rfl⟩

theorem witness_StepKeepsOneWidth :
    { open8 0x5E#32 with inputs := [Pins.request 0x20000000001#42] }.OneWidth ∧
    ∃ t, step { open8 0x5E#32 with inputs := [Pins.request 0x20000000001#42] } = .next t :=
  ⟨fun _ => ⟨.w8, by decide⟩, _, rfl⟩

theorem witness_PowerUpMeetsStateInvariants : State.reset.PowerUp ∧ (asked 0x30000000000#42).PowerUp := by decide

theorem witness_ReachableStatesMeetInvariants : Reachable (asked 0x10800000000#42) ∧
    ∃ t, step (asked 0x10800000000#42) = .next t ∧ Reachable t := by
  have h : Reachable (asked 0x10800000000#42) := .powerUp _ (by decide)
  exact ⟨h, _, rfl, .step _ _ h rfl⟩

end Sys2Proof.Tests
end

section
/-! Noninterference of a transaction (10_state.md R31): what START leaves is a function of its operands and the
configuration, and from there on the four elements alone decide every response. -/

namespace Sys2Proof.Machine

/-- The four elements and the response port agree: all that a transaction leaves for its requester. -/
abbrev SameAnswer (s t : State) : Prop := SameElements s t ∧ s.rsp = t.rsp

/-! START, whatever its `width` field. -/

/-- START runs at the width its field selects, or fails at an illegal one, from every state alike (R72, R131, R136). -/
theorem exec_startInstr_cases (n : BitVec 8) (iv : Word) :
    (∃ w, widthOfField n = some w ∧ ∀ s, exec (startInstr n iv) s = .next (startOp w iv s)) ∨
    (widthOfField n = none ∧ ∀ s, exec (startInstr n iv) s = .next (startIllegal s)) := by
  unfold startInstr
  cases widthOfField n with
  | none => exact .inr ⟨rfl, fun _ => rfl⟩
  | some w =>
    refine .inl ⟨w, rfl, fun s => ?_⟩
    cases w <;> rfl

/-- START at a legal width reads nothing of the old state but the configuration. -/
theorem startOp_sameAnswer (w : Width) (iv : Word) {s t : State} (hcfg : s.cfg = t.cfg) :
    SameAnswer (startOp w iv s) (startOp w iv t) := by
  cases h : initOutOfRange w iv with
  | true =>
    rw [startOp_of_fail h, startOp_of_fail h]
    exact ⟨⟨rfl, rfl, rfl, rfl⟩, rfl⟩
  | false =>
    rw [startOp_of_pass h, startOp_of_pass h, hcfg]
    exact ⟨⟨rfl, rfl, rfl, rfl⟩, rfl⟩

theorem exec_startInstr_sameAnswer (n : BitVec 8) (iv : Word) {s s' : State} (hcfg : s.cfg = s'.cfg) :
    ∃ t t', exec (startInstr n iv) s = .next t ∧ exec (startInstr n iv) s' = .next t' ∧ SameAnswer t t' := by
  obtain ⟨w, -, hexec⟩ | ⟨-, hexec⟩ := exec_startInstr_cases n iv
  · exact ⟨_, _, hexec s, hexec s', startOp_sameAnswer w iv hcfg⟩
  · exact ⟨_, _, hexec s, hexec s', ⟨rfl, rfl, rfl, rfl⟩, rfl⟩

/-! BYTE and READ. -/

theorem out_eq_of_sameElements {s t : State} (h : SameElements s t) : s.out = t.out := by
  obtain ⟨hacc, -, hmask, hstatus⟩ := h
  rw [State.out, State.out, hacc, hmask, hstatus]

/-- The response of START, BYTE and READ is a function of the elements (R78, R130). -/
theorem respondOut_sameAnswer {s t : State} (h : SameElements s t) : SameAnswer s.respondOut t.respondOut := by
  refine ⟨h, ?_⟩
  have ⟨_, _, _, hstatus⟩ := h
  rw [State.respondOut_rsp, State.respondOut_rsp, hstatus, out_eq_of_sameElements h]

/-- BYTE keeps two states of the same elements together, in a good transaction and in none. -/
theorem byteOp_sameAnswer (b : Byte) {s t : State} (h : SameElements s t) :
    SameAnswer (byteOp b s) (byteOp b t) := by
  have ⟨hacc, hrpoly, hmask, hstatus⟩ := h
  unfold byteOp
  apply respondOut_sameAnswer
  by_cases hok : s.status = .ok
  · rw [if_pos hok, if_pos (hstatus ▸ hok), hacc, hrpoly]
    exact ⟨rfl, hrpoly, hmask, hstatus⟩
  · rw [if_neg hok, if_neg (hstatus ▸ hok)]
    exact h

/-- The rest of a transaction after its START: any bytes, then READ. -/
theorem execAll_bytes_read_sameAnswer (bytes : List Byte) {s s' : State} (h : SameElements s s') :
    ∃ t t', execAll (bytes.map .byte ++ [.read]) s = .next t ∧ execAll (bytes.map .byte ++ [.read]) s' = .next t' ∧
      SameAnswer t t' := by
  induction bytes generalizing s s' with
  | nil => exact ⟨_, _, rfl, rfl, respondOut_sameAnswer h⟩
  | cons b rest ih =>
    obtain ⟨hbyte, -⟩ := byteOp_sameAnswer b h
    exact ih hbyte

/-- Settles O36: START makes the elements agree, and the bytes and READ keep them and the responses together. -/
theorem transactionDependsOnItsOwnOperandsOnly : Obligations.TransactionDependsOnItsOwnOperandsOnly := by
  intro iv n bytes s s' hcfg
  obtain ⟨t, t', hs, hs', hanswer⟩ := exec_startInstr_sameAnswer n iv hcfg
  refine ⟨⟨t, t', hs, hs', hanswer⟩, ?_⟩
  rw [List.cons_append, execAll_cons hs, execAll_cons hs']
  obtain ⟨helements, -⟩ := hanswer
  exact execAll_bytes_read_sameAnswer bytes helements

end Sys2Proof.Machine
end

section
/-! The Bit Reverser as requested (40_bit_reverser.md R106 to R109): which words ask for REV at a legal width, and what
such a request is answered. -/

open Sys2Proof.Laws Sys2Proof.Claims

namespace Sys2Proof.Machine

/-! A word by its `op` and `width` fields. -/

/-- A word that meets a row tried with the mask of `op` and `width` is that row's pattern with its own data (R71, R84). -/
theorem eq_requestWord_of_and_fields {w : ReqWord} {op : BitVec 2} {n : BitVec 8}
    (h : w &&& 0x3FF00000000#42 = requestWord op n 0#32) : w = requestWord op n (reqData w) := by
  have hfields : requestWord (reqOp w) (reqWidth w) 0#32 = requestWord op n 0#32 := by
    rw [← requestWord_and_fields (reqOp w) (reqWidth w) (reqData w), requestWord_of_fields, h]
  have hop : reqOp w = op := by simpa using congrArg reqOp hfields
  have hwidth : reqWidth w = n := by simpa using congrArg reqWidth hfields
  rw [← hop, ← hwidth, requestWord_of_fields]

/-- The words of a row are settled by the decoder on the row's `op` and `width`, whatever the data. -/
theorem encodedAs_of_decode {mk : Word → Instr} (op : BitVec 2) (n : BitVec 8)
    (h : ∀ d, decode (requestWord op n d) = mk d) : EncodedAs mk (requestWord op n 0#32) := by
  intro w hw
  calc decode w = decode (requestWord op n (reqData w)) := congrArg decode (eq_requestWord_of_and_fields hw)
    _ = mk (reqData w) := h _

theorem encodedAs_revInstr (n : BitVec 8) : EncodedAs (revInstr n) (requestWord 0b00#2 n 0#32) :=
  encodedAs_of_decode 0b00#2 n fun d => decode_requestWord 0b00#2 n d

/-! REV at a legal width. -/

theorem exec_revInstr_legal (w : Width) (v : Word) (s : State) :
    exec (revInstr (BitVec.ofNat 8 w.bits) v) s = .next (revOp w v s) := by
  cases w <;> rfl

/-- The reversal in the words of the claims (R103, R104). -/
theorem reverse_reverses (v : Word) (w : Width) : Reverses (reverse v w) v w.bits := by
  refine ⟨fun j hj => ?_, fun j hj => ?_⟩
  · simp [reverse_getLsbD, hj]
  · simp [reverse_getLsbD, Nat.not_lt.mpr hj]

/-- REV at every legal width at once: its words, its response and its frame. -/
theorem revInstr_respondsReversal (w : Width) :
    RespondsReversal (revInstr (BitVec.ofNat 8 w.bits)) w.bits
      (requestWord 0b00#2 (BitVec.ofNat 8 w.bits) 0#32) :=
  ⟨encodedAs_revInstr _, fun v s => ⟨reverse v w, exec_revInstr_legal w v s, reverse_reverses v w⟩⟩

/-- Settles O1: the four forms are REV at the four legal values of the `width` field. -/
theorem revRespondsReversalOfLowBits : Obligations.RevRespondsReversalOfLowBits :=
  ⟨revInstr_respondsReversal .w8, revInstr_respondsReversal .w16, revInstr_respondsReversal .w24,
    revInstr_respondsReversal .w32⟩

end Sys2Proof.Machine
end

section
/-! The words of START, BYTE and READ (30_encoding.md R72 to R77): which words ask for each of them, and the width a
`width` field selects, in the words of the claims. -/

open Sys2Proof.Laws Sys2Proof.Claims

namespace Sys2Proof.Machine

/-! The `width` field. -/

theorem widthOfField_eq_some_iff (n : BitVec 8) (w : Width) : widthOfField n = some w ↔ FieldOf n w := by
  revert n; cases w <;> decide

theorem widthOfField_eq_none_iff (n : BitVec 8) : widthOfField n = none ↔ IllegalWidth n := by
  revert n; decide

theorem widthOfField_bits (w : Width) : widthOfField (BitVec.ofNat 8 w.bits) = some w := by
  cases w <;> rfl

/-! The words. -/

theorem encodedAs_startInstr (n : BitVec 8) : EncodedAs (startInstr n) (requestWord 0b01#2 n 0#32) :=
  encodedAs_of_decode 0b01#2 n fun d => decode_requestWord 0b01#2 n d

/-- A word that meets a row tried with the mask of `op` alone has that row's `op` (R84). -/
theorem reqOp_of_and_op {w : ReqWord} {op : BitVec 2}
    (h : w &&& 0x30000000000#42 = requestWord op 0#8 0#32) : reqOp w = op := by
  have hop : requestWord (reqOp w) 0#8 0#32 = requestWord op 0#8 0#32 := by
    rw [← requestWord_and_op (reqOp w) (reqWidth w) (reqData w), requestWord_of_fields, h]
  simpa using congrArg reqOp hop

theorem reqByte_eq_extractLsb' (w : ReqWord) : reqByte w = w.extractLsb' 0 8 := by
  apply BitVec.eq_of_getLsbD_eq
  intro j hj
  simp [reqByte, reqData, hj]

theorem decode_of_byte_row {w : ReqWord} (h : w &&& 0x30000000000#42 = requestWord 0b10#2 0#8 0#32) :
    decode w = .byte (w.extractLsb' 0 8) := by
  rw [decode, if_pos (reqOp_of_and_op h), reqByte_eq_extractLsb']

theorem decode_of_read_row {w : ReqWord} (h : w &&& 0x30000000000#42 = requestWord 0b11#2 0#8 0#32) :
    decode w = .read := by
  have hop : reqOp w = 0b11#2 := reqOp_of_and_op h
  rw [decode, hop]
  rfl

end Sys2Proof.Machine
end

section
/-! The CRC Engine's operations one at a time (41_crc_engine.md R131 to R137, R139): what START, BYTE and READ leave and
answer. -/

open Sys2Proof.Claims

namespace Sys2Proof.Machine

/-! START at a legal width. -/

theorem exec_startInstr_of_some {n : BitVec 8} {w : Width} (h : widthOfField n = some w) (iv : Word) (s : State) :
    exec (startInstr n iv) s = .next (startOp w iv s) := by
  obtain ⟨w', hw', hexec⟩ | ⟨hnone, -⟩ := exec_startInstr_cases n iv
  · obtain rfl : w' = w := Option.some.inj (hw'.symm.trans h)
    exact hexec s
  · cases hnone.symm.trans h

theorem exec_startInstr_of_none {n : BitVec 8} (h : widthOfField n = none) (iv : Word) (s : State) :
    exec (startInstr n iv) s = .next (startIllegal s) := by
  obtain ⟨w, hw, -⟩ | ⟨-, hexec⟩ := exec_startInstr_cases n iv
  · cases hw.symm.trans h
  · exact hexec s

theorem startOp_of_le {w : Width} {iv : Word} (h : iv ≤ maskOf w) (s : State) :
    startOp w iv s = (s.setElements iv (reverse (polyOf s.cfg w) w) (maskOf w) .ok).respond .ok iv := by
  obtain ⟨hlt, -⟩ | ⟨-, e⟩ := startOp_cases w iv s
  · exact absurd h (BitVec.not_le.mpr hlt)
  · exact e

theorem startOp_of_lt {w : Width} {iv : Word} (h : maskOf w < iv) (s : State) :
    startOp w iv s = (raiseFailure .errInit s).respond .errInit 0#32 :=
  startOp_of_fail ((initOutOfRange_iff w iv).mpr h) s

/-- START at every legal width at once: its words, its success up to the mask and its failure above it. At width 32 the
last part is about no value. -/
theorem startInstr_loadsOrFails (w : Width) :
    LoadsOrFails (startInstr (BitVec.ofNat 8 w.bits)) w.bits (maskOf w) (polyOf · w)
      (requestWord 0b01#2 (BitVec.ofNat 8 w.bits) 0#32) := by
  refine ⟨encodedAs_startInstr _, fun iv s hle => ⟨reverse (polyOf s.cfg w) w, ?_, reverse_reverses _ w⟩,
    fun iv s hlt => ?_⟩
  · rw [exec_startInstr_of_some (widthOfField_bits w), startOp_of_le hle]
    rfl
  · rw [exec_startInstr_of_some (widthOfField_bits w), startOp_of_lt hlt]
    rfl

/-- Settles O5: the three forms are START at the legal values of the `width` field below 32. -/
theorem startBelow32LoadsOrFails : Obligations.StartBelow32LoadsOrFails :=
  ⟨startInstr_loadsOrFails .w8, startInstr_loadsOrFails .w16, startInstr_loadsOrFails .w24⟩

/-- Settles O6: at width 32 every initial value is up to the mask. -/
theorem start32AlwaysLoads : Obligations.Start32AlwaysLoads := by
  obtain ⟨hwords, hloads, -⟩ := startInstr_loadsOrFails .w32
  exact ⟨hwords, fun iv s => hloads iv s (Nat.le_of_lt_succ iv.isLt)⟩

/-! BYTE and READ. -/

theorem code_eq_of_codeIs {st : Status} {c : BitVec 2} (h : CodeIs st c) : c = st.code := by
  obtain ⟨rfl, rfl⟩ | ⟨rfl, rfl⟩ | ⟨rfl, rfl⟩ | ⟨rfl, rfl⟩ := h <;> rfl

/-- The iterations in the order they run: the last one on what those before it leave (R127, R128). -/
theorem crcIterate_succ (rpoly : Word) (n : Nat) (a : Word) :
    crcIterate rpoly (n + 1) a = crcBit (crcIterate rpoly n a) rpoly := by
  induction n generalizing a with
  | zero => rfl
  | succ n ih => exact ih (crcBit a rpoly)

theorem byteOp_of_ok {s : State} (h : s.status = .ok) (b : Byte) :
    byteOp b s = (s.setAcc (crcByte s.acc s.rpoly b)).respond .ok (crcByte s.acc s.rpoly b &&& s.mask) := by
  obtain ⟨-, e⟩ | ⟨hne, -⟩ := byteOp_cases b s
  · exact e
  · exact absurd h hne

theorem byteOp_of_not_ok {s : State} (h : s.status ≠ .ok) (b : Byte) : byteOp b s = s.respond s.status 0#32 := by
  obtain ⟨hok, -⟩ | ⟨-, e⟩ := byteOp_cases b s
  · exact absurd hok h
  · exact e

theorem exec_byte (b : Byte) (s : State) : exec (.byte b) s = .next (byteOp b s) := rfl

theorem exec_read (s : State) : exec .read s = .next s.respondOut := rfl

/-- Settles O10: the chain of values is the accumulator after each number of iterations. -/
theorem byteFoldsEightIterations : Obligations.ByteFoldsEightIterations := by
  refine ⟨fun w hw => decode_of_byte_row hw, fun b s hok => ?_, fun b s c hne hc => ?_⟩
  · refine ⟨fun k => crcIterate s.rpoly k (s.acc ^^^ zext32 b), rfl, fun k _ => crcIterate_succ s.rpoly k _, ?_⟩
    rw [exec_byte, byteOp_of_ok hok]
    rfl
  · rw [exec_byte, byteOp_of_not_ok hne, code_eq_of_codeIs hc]
    rfl

/-- Settles O11: READ presents the status and `out()`, and the code is that of the status. -/
theorem readRespondsStatusAndResult : Obligations.ReadRespondsStatusAndResult := by
  refine ⟨fun w hw => decode_of_read_row hw, fun s c hc => ?_⟩
  rw [exec_read, code_eq_of_codeIs hc]
  rfl

end Sys2Proof.Machine
end

section
/-! COMPUTE (41_crc_engine.md R138, R140, R143): its answer on a readable buffer, and the bits of a result. -/

open Sys2Proof.Claims

namespace Sys2Proof.Machine

/-- The bytes of a transaction in progress fold into its accumulator and leave the rest of it (R129, R137). -/
theorem execAll_bytes_of_ok (bytes : List Byte) {s : State} (hok : s.status = .ok) :
    ∃ t, execAll (bytes.map .byte) s = .next t ∧
      t.acc = crcBytes s.acc s.rpoly bytes ∧ t.mask = s.mask ∧ t.status = .ok := by
  induction bytes generalizing s with
  | nil => exact ⟨s, rfl, rfl, rfl, hok⟩
  | cons b rest ih =>
    rw [List.map_cons, execAll_cons (exec_byte b s), byteOp_of_ok hok]
    exact ih hok

section
variable {memRead : Nat → Option Byte} {iv : Word} {n : BitVec 8} {buf : Nat} {length : Word} {bytes : List Byte}
  {s t : State}

theorem readBuffer_of_bufferIs (h : BufferIs memRead buf length bytes) :
    readBuffer memRead buf length.toNat = some bytes := by
  obtain ⟨hlength, hread⟩ := h
  rw [← hlength]
  exact readBuffer_eq_some hread

/-- COMPUTE answers at all only on a readable buffer (R57). -/
theorem exists_readBuffer_of_compute (h : compute memRead iv n buf length s = .next t) :
    ∃ bytes, readBuffer memRead buf length.toNat = some bytes := by
  cases hread : readBuffer memRead buf length.toNat with
  | none => rw [compute, hread] at h; cases h
  | some bytes => exact ⟨bytes, rfl⟩

/-- After a START that failed, COMPUTE issues nothing more. -/
theorem compute_of_start_failed (hread : readBuffer memRead buf length.toNat = some bytes)
    (hstart : exec (startInstr n iv) s = .next t) (hne : t.status ≠ .ok) :
    compute memRead iv n buf length s = .next t := by
  rw [compute, hread, hstart]
  exact if_neg hne

/-- After a START that loaded a transaction, COMPUTE answers with the READ of its bytes. -/
theorem compute_of_start_loaded (hread : readBuffer memRead buf length.toNat = some bytes)
    (hstart : exec (startInstr n iv) s = .next t) (hok : t.status = .ok) :
    ∃ u, compute memRead iv n buf length s = .next u ∧
      u.rsp = some (0#2 ++ (crcBytes t.acc t.rpoly bytes &&& t.mask)) := by
  obtain ⟨v, hbytes, hacc, hmask, hstatus⟩ := execAll_bytes_of_ok bytes hok
  refine ⟨v.respondOut, ?_, ?_⟩
  · rw [compute, hread, hstart]
    simp only [andThen, if_pos hok, hbytes, exec_read]
  · rw [State.respondOut_rsp, State.out_of_ok v hstatus, hstatus, hacc, hmask]
    rfl

/-- COMPUTE at a legal width and an initial value within it (R138). -/
theorem compute_of_le {w : Width} (hread : readBuffer memRead buf length.toNat = some bytes)
    (hw : widthOfField n = some w) (hle : iv ≤ maskOf w) :
    ∃ t, compute memRead iv n buf length s = .next t ∧
      t.rsp = some (0#2 ++ (crcBytes (iv &&& maskOf w) (reverse (polyOf s.cfg w) w) bytes &&& maskOf w)) := by
  rw [and_maskOf_of_le hle]
  have hstart := exec_startInstr_of_some hw iv s
  rw [startOp_of_le hle] at hstart
  exact compute_of_start_loaded hread hstart rfl

/-- COMPUTE at a legal width and an initial value above it (R138, R162). -/
theorem compute_of_lt {w : Width} (hread : readBuffer memRead buf length.toNat = some bytes)
    (hw : widthOfField n = some w) (hlt : maskOf w < iv) :
    ∃ t, compute memRead iv n buf length s = .next t ∧ t.rsp = some (2#2 ++ 0#32) := by
  have hstart := exec_startInstr_of_some hw iv s
  rw [startOp_of_lt hlt] at hstart
  exact ⟨_, compute_of_start_failed hread hstart nofun, rfl⟩

/-- COMPUTE at an illegal width (R138, R161). -/
theorem compute_of_illegal (hread : readBuffer memRead buf length.toNat = some bytes)
    (hn : widthOfField n = none) :
    ∃ t, compute memRead iv n buf length s = .next t ∧ t.rsp = some (1#2 ++ 0#32) :=
  ⟨_, compute_of_start_failed hread (exec_startInstr_of_none hn iv s) nofun, rfl⟩

end

/-- Settles O31: the `width` field is of one legal width, with the initial value within it or above, or of none. -/
theorem computeClosedForm : Obligations.ComputeClosedForm := by
  intro memRead iv n buf length bytes s hbuf
  have hread := readBuffer_of_bufferIs hbuf
  simp only [← widthOfField_eq_some_iff, ← widthOfField_eq_none_iff]
  cases hn : widthOfField n with
  | none =>
    obtain ⟨t, ht, hrsp⟩ := compute_of_illegal hread hn
    exact ⟨t, ht, nofun, nofun, fun _ => hrsp⟩
  | some w =>
    by_cases hle : iv ≤ maskOf w
    · obtain ⟨t, ht, hrsp⟩ := compute_of_le hread hn hle
      refine ⟨t, ht, ?_, ?_, nofun⟩
      · rintro _ ⟨⟩ -
        exact hrsp
      · rintro _ ⟨⟩ hlt
        exact absurd hle (BitVec.not_le.mpr hlt)
    · obtain ⟨t, ht, hrsp⟩ := compute_of_lt hread hn (BitVec.not_le.mp hle)
      refine ⟨t, ht, ?_, ?_, nofun⟩
      · rintro _ ⟨⟩ hle'
        exact absurd hle' hle
      · rintro _ ⟨⟩ -
        exact hrsp

/-- Settles O34: an empty buffer is readable in any memory, and no byte changes the loaded value. -/
theorem zeroLengthAnswersInitialValue : Obligations.ZeroLengthAnswersInitialValue := by
  intro memRead iv n w buf s hfield hle
  have hread : readBuffer memRead buf (0#32).toNat = some [] := rfl
  obtain ⟨t, ht, hrsp⟩ := compute_of_le (s := s) hread ((widthOfField_eq_some_iff n w).mpr hfield) hle
  have hiv := and_maskOf_of_le hle
  refine ⟨t, ht, ?_, hiv⟩
  rw [hrsp, crcBytes, hiv, hiv]

/-! The bits of a result. -/

theorem and_maskOf_getLsbD_of_ge (v : Word) {w : Width} {j : Nat} (hj : w.bits ≤ j) :
    (v &&& maskOf w).getLsbD j = false := by
  simp [maskOf_getLsbD, Nat.not_lt.mpr hj]

/-- `out()` lies within the width of its transaction; it is 0 where there is none (R130). -/
theorem out_getLsbD_of_ge {s : State} {w : Width} (hmask : s.status = .ok → s.mask = maskOf w) {j : Nat}
    (hj : w.bits ≤ j) : s.out.getLsbD j = false := by
  by_cases hok : s.status = .ok
  · rw [State.out_of_ok s hok, hmask hok]
    exact and_maskOf_getLsbD_of_ge s.acc hj
  · rw [State.out_of_not_ok s hok]
    exact BitVec.getLsbD_zero

/-- START, BYTE and READ respond the status and `out()` of the state they leave (R78). -/
theorem exec_rsp_of_not_rev {i : Instr} {s t : State} (hi : isRev i = false) (h : exec i s = .next t) :
    t.rsp = some (responseWord t.status t.out) := by
  obtain ⟨w, v, -, hrev⟩ | ⟨n, v, rfl, -⟩ | ⟨w, iv, rfl, -⟩ | ⟨n, iv, -, rfl⟩ | ⟨b, -, rfl⟩ | ⟨-, rfl⟩ := exec_cases h
  · obtain ⟨rfl, -⟩ | ⟨rfl, -⟩ | ⟨rfl, -⟩ | ⟨rfl, -⟩ := hrev <;> cases hi
  · cases hi
  · rfl
  · rfl
  · rfl
  · rfl

/-- COMPUTE's value at a legal width is masked, or a failure's 0. -/
theorem compute_result_getLsbD_of_ge {memRead : Nat → Option Byte} {iv : Word} {n : BitVec 8} {w : Width} {buf : Nat}
    {length : Word} {s t : State} (hw : widthOfField n = some w) (h : compute memRead iv n buf length s = .next t) :
    ∃ (c : BitVec 2) (r : Word), t.rsp = some (c ++ r) ∧ ∀ j, w.bits ≤ j → r.getLsbD j = false := by
  obtain ⟨bytes, hread⟩ := exists_readBuffer_of_compute h
  by_cases hle : iv ≤ maskOf w
  · obtain ⟨u, hu, hrsp⟩ := compute_of_le hread hw hle
    obtain rfl : u = t := Host.Outcome.next.inj (hu.symm.trans h)
    exact ⟨_, _, hrsp, fun j hj => and_maskOf_getLsbD_of_ge _ hj⟩
  · obtain ⟨u, hu, hrsp⟩ := compute_of_lt hread hw (BitVec.not_le.mp hle)
    obtain rfl : u = t := Host.Outcome.next.inj (hu.symm.trans h)
    exact ⟨_, _, hrsp, fun j _ => BitVec.getLsbD_zero⟩

/-- Settles O33: COMPUTE's value is masked or 0, and every other response is `out()`. -/
theorem resultHasNoBitAboveWidth : Obligations.ResultHasNoBitAboveWidth := by
  refine ⟨fun memRead iv n w buf length s t hfield h => ?_, fun i w s t hi h hmask => ?_⟩
  · exact compute_result_getLsbD_of_ge ((widthOfField_eq_some_iff n w).mpr hfield) h
  · exact ⟨_, _, exec_rsp_of_not_rev hi h, fun j hj => out_getLsbD_of_ge hmask hj⟩

end Sys2Proof.Machine
end

section
/-! What a step does to the elements, and the invariants of the state (10_state.md section 9, 41_crc_engine.md
section 6): they hold at power-up, and every step keeps them. -/

namespace Sys2Proof.Machine

/-! One step, by its effect on the elements. -/

/-- What a step can do: leave the elements, load a transaction within its width, clear them with a `STATUS` that is not
OK, or fold a byte into a transaction in progress. It takes one slot and leaves the configuration. -/
theorem step_elements {s t : State} (h : step s = .next t) :
    t.cfg = s.cfg ∧ t.inputs = s.inputs.tail ∧
    (SameElements t s ∨
    (∃ (w : Width) (iv : Word), iv ≤ maskOf w ∧ t.acc = iv ∧ t.rpoly = reverse (polyOf s.cfg w) w ∧
      t.mask = maskOf w ∧ t.status = .ok) ∨
    (t.acc = 0#32 ∧ t.rpoly = 0#32 ∧ t.mask = 0#32 ∧ t.status ≠ .ok) ∨
    (∃ b, s.status = .ok ∧ t.acc = crcByte s.acc s.rpoly b ∧ t.rpoly = s.rpoly ∧ t.mask = s.mask ∧
      t.status = .ok)) := by
  obtain ⟨hi, rfl⟩ | ⟨p, rest, hi, -, rfl⟩ | ⟨p, rest, hi, -, -, hexec⟩ | ⟨p, rest, hi, -, -, rfl⟩ := step_cases h <;>
    rw [hi]
  · exact ⟨rfl, hi, .inl ⟨rfl, rfl, rfl, rfl⟩⟩
  · exact ⟨rfl, rfl, .inr (.inr (.inl ⟨rfl, rfl, rfl, nofun⟩))⟩
  · obtain ⟨hcfg, hinputs, hsame | hload | ⟨hacc, hrpoly, hmask, hstatus⟩ | hbyte⟩ := exec_elements hexec
    · exact ⟨hcfg, hinputs, .inl hsame⟩
    · exact ⟨hcfg, hinputs, .inr (.inl hload)⟩
    · have hne : t.status ≠ .ok := by rcases hstatus with e | e <;> rw [e] <;> nofun
      exact ⟨hcfg, hinputs, .inr (.inr (.inl ⟨hacc, hrpoly, hmask, hne⟩))⟩
    · exact ⟨hcfg, hinputs, .inr (.inr (.inr hbyte))⟩
  · exact ⟨rfl, rfl, .inl ⟨rfl, rfl, rfl, rfl⟩⟩

/-- Settles O19: the configuration's part of what a step can do. -/
theorem stepKeepsConfiguration : Obligations.StepKeepsConfiguration := by
  intro s t h
  obtain ⟨hcfg, -⟩ := step_elements h
  exact hcfg

/-! The four invariants. -/

theorem legalMask_iff (m : Word) : LegalMask m ↔ ∃ w, m = maskOf w := by
  constructor
  · rintro (rfl | rfl | rfl | rfl)
    exacts [⟨.w8, rfl⟩, ⟨.w16, rfl⟩, ⟨.w24, rfl⟩, ⟨.w32, rfl⟩]
  · rintro ⟨w, rfl⟩
    cases w <;> decide

/-- The invariants in an open transaction, where the last of them says nothing. -/
theorem inv_of_ok {s : State} {w : Width} (hok : s.status = .ok) (hmask : s.mask = maskOf w)
    (hrpoly : s.rpoly &&& maskOf w = s.rpoly) (hacc : s.acc &&& maskOf w = s.acc) : s.Inv := by
  rw [← hmask] at hrpoly hacc
  exact ⟨fun _ => (legalMask_iff _).mpr ⟨w, hmask⟩, fun _ => hrpoly, fun _ => hacc, fun hne => absurd hok hne⟩

/-- The invariants outside a transaction, where the last of them alone says something. -/
theorem inv_of_not_ok {s : State} (hne : s.status ≠ .ok) (hacc : s.acc = 0#32) (hrpoly : s.rpoly = 0#32)
    (hmask : s.mask = 0#32) : s.Inv :=
  ⟨fun hok => absurd hok hne, fun hok => absurd hok hne, fun hok => absurd hok hne, fun _ => ⟨hacc, hrpoly, hmask⟩⟩

theorem inv_of_sameElements {s t : State} (h : SameElements t s) (hs : s.Inv) : t.Inv := by
  obtain ⟨hacc, hrpoly, hmask, hstatus⟩ := h
  unfold State.Inv
  rw [hacc, hrpoly, hmask, hstatus]
  exact hs

/-- Settles O38: a load writes values within its mask, a fold stays within it, and a failure and reset clear all. -/
theorem stepKeepsStateInvariants : Obligations.StepKeepsStateInvariants := by
  intro s t hs h
  obtain ⟨-, -, hsame | ⟨w, iv, hle, hacc, hrpoly, hmask, hok⟩ | ⟨hacc, hrpoly, hmask, hne⟩ |
    ⟨b, hsok, hacc, hrpoly, hmask, hok⟩⟩ := step_elements h
  · exact inv_of_sameElements hsame hs
  · refine inv_of_ok hok hmask ?_ ?_
    · rw [hrpoly, reverse_and_maskOf]
    · rw [hacc, and_maskOf_of_le hle]
  · exact inv_of_not_ok hne hacc hrpoly hmask
  · obtain ⟨hlegal, hsrpoly, hsacc, -⟩ := hs
    obtain ⟨w, hw⟩ := (legalMask_iff _).mp (hlegal hsok)
    have hsrpoly := hsrpoly hsok
    have hsacc := hsacc hsok
    rw [hw] at hsrpoly hsacc
    refine inv_of_ok hok (hmask.trans hw) ?_ ?_
    · rw [hrpoly, hsrpoly]
    · rw [hacc, crcByte_and_maskOf hsacc hsrpoly]

/-! The one-width invariant. -/

/-- Settles O39: START sets all three to those of its width, and a BYTE folds within the mask. -/
theorem stepKeepsOneWidth : Obligations.StepKeepsOneWidth := by
  intro s t hs h htok
  obtain ⟨hcfg, -, ⟨hacc, hrpoly, hmask, hstatus⟩ | ⟨w, iv, hle, hacc, hrpoly, hmask, -⟩ | ⟨-, -, -, hne⟩ |
    ⟨b, hsok, hacc, hrpoly, hmask, -⟩⟩ := step_elements h
  · rw [hacc, hrpoly, hmask, hcfg]
    exact hs (hstatus ▸ htok)
  · rw [hcfg]
    exact ⟨w, hmask, hrpoly, hacc ▸ hle⟩
  · exact absurd htok hne
  · obtain ⟨w, hsmask, hsrpoly, hsacc⟩ := hs hsok
    have hwithin : s.rpoly &&& maskOf w = s.rpoly := by rw [hsrpoly, reverse_and_maskOf]
    have hle : crcByte s.acc s.rpoly b ≤ maskOf w := by
      rw [← crcByte_and_maskOf (and_maskOf_of_le hsacc) hwithin b]
      exact and_maskOf_le w _
    rw [hcfg]
    exact ⟨w, hmask.trans hsmask, hrpoly.trans hsrpoly, hacc ▸ hle⟩

/-! The reachable states. -/

/-- Settles O40: at power-up STATUS is IDLE and the other elements are 0. -/
theorem powerUpMeetsStateInvariants : Obligations.PowerUpMeetsStateInvariants := by
  intro s h
  have hidle : s.status = .idle := congrArg State.status h
  have hne : s.status ≠ .ok := by rw [hidle]; nofun
  exact ⟨inv_of_not_ok hne (congrArg State.acc h) (congrArg State.rpoly h) (congrArg State.mask h),
    fun hok => absurd hok hne, congrArg State.rsp h, hidle⟩

/-- Settles O41: the invariants hold at power-up, and every step keeps each of them. -/
theorem reachableStatesMeetInvariants : Obligations.ReachableStatesMeetInvariants := by
  intro s h
  induction h with
  | powerUp s hs =>
    obtain ⟨hinv, hwidth, -⟩ := powerUpMeetsStateInvariants s hs
    exact ⟨hinv, hwidth⟩
  | step s t _ hst ih =>
    obtain ⟨hinv, hwidth⟩ := ih
    exact ⟨stepKeepsStateInvariants s t hinv hst, stepKeepsOneWidth s t hwidth hst⟩

end Sys2Proof.Machine
end

section
/-! The decoder and the encoder are inverse to each other, and the decoder agrees with the opcode table (30_encoding.md
sections 2, 4, 7 and 8). -/

open Sys2Proof.Laws Sys2Proof.Claims

namespace Sys2Proof.Machine

/-! The decoder, one lemma per value of `op`. -/

theorem decode_rev (n : BitVec 8) (d : Word) : decode (requestWord 0b00#2 n d) = revInstr n d :=
  decode_requestWord 0b00#2 n d

theorem decode_start (n : BitVec 8) (d : Word) : decode (requestWord 0b01#2 n d) = startInstr n d :=
  decode_requestWord 0b01#2 n d

theorem decode_byte (n : BitVec 8) (d : Word) : decode (requestWord 0b10#2 n d) = .byte (d.extractLsb' 0 8) :=
  decode_requestWord 0b10#2 n d

theorem decode_read (n : BitVec 8) (d : Word) : decode (requestWord 0b11#2 n d) = .read :=
  decode_requestWord 0b11#2 n d

theorem op_cases (op : BitVec 2) : op = 0b00#2 ∨ op = 0b01#2 ∨ op = 0b10#2 ∨ op = 0b11#2 := by
  revert op; decide

theorem eq_requestWord (w : ReqWord) : ∃ op n d, w = requestWord op n d ∧ w.extractLsb' 40 2 = op :=
  ⟨reqOp w, reqWidth w, reqData w, (requestWord_of_fields w).symm, rfl⟩

/-! REV and START at an illegal width. -/

theorem widthOfField_of_not_legal {n : BitVec 8} (h : (!legalWidthField n) = true) : widthOfField n = none := by
  revert n; decide

theorem revInstr_of_none {n : BitVec 8} (h : widthOfField n = none) (v : Word) : revInstr n v = .revX n v := by
  rw [revInstr, h]

theorem startInstr_of_none {n : BitVec 8} (h : widthOfField n = none) (iv : Word) : startInstr n iv = .startX n iv := by
  rw [startInstr, h]

/-- Settles O2: `op` selects REV and the `width` field no legal form of it; the operation is its arm. -/
theorem revIllegalWidthRespondsFreeValue : Obligations.RevIllegalWidthRespondsFreeValue := by
  refine ⟨fun w hop hwidth => ?_, fun n v s => rfl⟩
  calc decode w = decode (requestWord (reqOp w) (reqWidth w) (reqData w)) := by rw [requestWord_of_fields]
    _ = revInstr (reqWidth w) (reqData w) := by rw [show reqOp w = 0b00#2 from hop, decode_rev]
    _ = _ := revInstr_of_none ((widthOfField_eq_none_iff _).mpr hwidth) _

/-- Settles O7: `op` selects START and the `width` field no legal form of it; the operation is its arm. -/
theorem startIllegalWidthFails : Obligations.StartIllegalWidthFails := by
  refine ⟨fun w hop hwidth => ?_, fun n iv s => rfl⟩
  calc decode w = decode (requestWord (reqOp w) (reqWidth w) (reqData w)) := by rw [requestWord_of_fields]
    _ = startInstr (reqWidth w) (reqData w) := by rw [show reqOp w = 0b01#2 from hop, decode_start]
    _ = _ := startInstr_of_none ((widthOfField_eq_none_iff _).mpr hwidth) _

/-! Decode of encode. -/

theorem extractLsb'_setWidth_byte (b : Byte) : (b.setWidth 32).extractLsb' 0 8 = b := by
  apply BitVec.eq_of_getLsbD_eq
  intro j hj
  have h32 : j < 32 := by omega
  simp [hj, h32]

/-- Settles O28: each encoding has its operation's `op` and `width` fields, and its operand in `data`. -/
theorem decodeOfEncode : Obligations.DecodeOfEncode := by
  intro i hwf
  cases i with
  | rev8 v => exact decode_rev 0x08#8 v
  | rev16 v => exact decode_rev 0x10#8 v
  | rev24 v => exact decode_rev 0x18#8 v
  | rev32 v => exact decode_rev 0x20#8 v
  | start8 iv => exact decode_start 0x08#8 iv
  | start16 iv => exact decode_start 0x10#8 iv
  | start24 iv => exact decode_start 0x18#8 iv
  | start32 iv => exact decode_start 0x20#8 iv
  | byte b => rw [encode, decode_byte, extractLsb'_setWidth_byte]
  | read => exact decode_read 0x00#8 0#32
  | revX n v =>
    have hnone := widthOfField_of_not_legal hwf
    rw [encode, decode_rev, revInstr_of_none hnone]
  | startX n iv =>
    have hnone := widthOfField_of_not_legal hwf
    rw [encode, decode_start, startInstr_of_none hnone]

/-! Encode of decode. -/

theorem setWidth_extractLsb'_byte (d : Word) : (d.extractLsb' 0 8).setWidth 32 = d &&& 0xFF#32 := by
  apply BitVec.eq_of_getLsbD_eq
  intro j hj
  have hmask : (0xFF#32 : Word).getLsbD j = decide (j < 8) := maskOf_getLsbD .w8 j
  rw [BitVec.getLsbD_and, hmask, BitVec.getLsbD_setWidth, BitVec.getLsbD_extractLsb', Nat.zero_add]
  simp [hj, Bool.and_comm]

/-- The bits of BYTE's word that are not ignored are `op` and `data[7:0]` (R77). -/
theorem requestWord_byte_and (n : BitVec 8) (d : Word) :
    requestWord 0b10#2 n d &&& 0x200000000FF#42 = requestWord 0b10#2 0#8 (d &&& 0xFF#32) := by
  have h : (0x200000000FF#42 : ReqWord) = requestWord 0b10#2 0#8 0xFF#32 := by decide
  rw [h, requestWord, requestWord, requestWord, BitVec.and_append, BitVec.and_append]
  simp only [BitVec.and_self, BitVec.and_zero]

/-- Settles O29: REV and START keep all their fields, BYTE its low byte, READ nothing but `op`. -/
theorem encodeOfDecodeClearsIgnoredBits : Obligations.EncodeOfDecodeClearsIgnoredBits := by
  intro w
  obtain ⟨op, n, d, rfl, hop⟩ := eq_requestWord w
  rw [hop]
  obtain rfl | rfl | rfl | rfl := op_cases op
  · exact (congrArg encode (decode_rev n d)).trans (encode_revInstr n d)
  · exact (congrArg encode (decode_start n d)).trans (encode_startInstr n d)
  · rw [decode_byte, encode, setWidth_extractLsb'_byte, if_pos rfl, requestWord_byte_and]
  · rw [decode_read, if_neg (by decide), if_pos rfl, requestWord_and_op]
    rfl

/-! The opcode table. -/

/-- A row that tests `op` and `width` is met by the words of its `op` and `width` (R84). -/
theorem requestWord_meets_fields (op op' : BitVec 2) (n n' : BitVec 8) (d : Word) :
    (requestWord op n d &&& 0x3FF00000000#42 == requestWord op' n' 0#32) = (op == op' && n == n') := by
  rw [requestWord_and_fields, Bool.eq_iff_iff, Bool.and_eq_true, beq_iff_eq, beq_iff_eq, beq_iff_eq]
  constructor
  · intro h
    exact ⟨by simpa using congrArg reqOp h, by simpa using congrArg reqWidth h⟩
  · rintro ⟨rfl, rfl⟩
    rfl

/-- A row that tests `op` alone is met by the words of its `op` (R84). -/
theorem requestWord_meets_op (op op' : BitVec 2) (n : BitVec 8) (d : Word) :
    (requestWord op n d &&& 0x30000000000#42 == requestWord op' 0#8 0#32) = (op == op') := by
  rw [requestWord_and_op, Bool.eq_iff_iff, beq_iff_eq, beq_iff_eq]
  constructor
  · intro h
    simpa using congrArg reqOp h
  · rintro rfl
    rfl

/-- The rows' patterns by their fields. -/
theorem opcodeTable_eq : opcodeTable = [
    ⟨"REV.8", 0x3FF00000000#42, requestWord 0b00#2 0x08#8 0#32⟩,
    ⟨"REV.16", 0x3FF00000000#42, requestWord 0b00#2 0x10#8 0#32⟩,
    ⟨"REV.24", 0x3FF00000000#42, requestWord 0b00#2 0x18#8 0#32⟩,
    ⟨"REV.32", 0x3FF00000000#42, requestWord 0b00#2 0x20#8 0#32⟩,
    ⟨"START.8", 0x3FF00000000#42, requestWord 0b01#2 0x08#8 0#32⟩,
    ⟨"START.16", 0x3FF00000000#42, requestWord 0b01#2 0x10#8 0#32⟩,
    ⟨"START.24", 0x3FF00000000#42, requestWord 0b01#2 0x18#8 0#32⟩,
    ⟨"START.32", 0x3FF00000000#42, requestWord 0b01#2 0x20#8 0#32⟩,
    ⟨"BYTE", 0x30000000000#42, requestWord 0b10#2 0#8 0#32⟩,
    ⟨"READ", 0x30000000000#42, requestWord 0b11#2 0#8 0#32⟩,
    ⟨"REV.x<n>", 0x30000000000#42, requestWord 0b00#2 0#8 0#32⟩,
    ⟨"START.x<n>", 0x30000000000#42, requestWord 0b01#2 0#8 0#32⟩] := rfl

/-- No row of the table tests a bit of `data`. -/
theorem tableRowOf_requestWord (op : BitVec 2) (n : BitVec 8) (d : Word) :
    tableRowOf (requestWord op n d) = tableRowOf (requestWord op n 0#32) := by
  simp only [tableRowOf, opcodeTable, List.find?, requestWord_and_fields, requestWord_and_op]

theorem beq_legal_of_none {n : BitVec 8} (h : widthOfField n = none) :
    (n == 0x08#8) = false ∧ (n == 0x10#8) = false ∧ (n == 0x18#8) = false ∧ (n == 0x20#8) = false := by
  revert n; decide

/-- A word of an illegal width passes by the rows of the legal widths. -/
theorem tableRowOf_of_none {n : BitVec 8} (h : widthOfField n = none) (d : Word) :
    (tableRowOf (requestWord 0b00#2 n d)).map TableRow.mnemonic = some "REV.x<n>" ∧
    (tableRowOf (requestWord 0b01#2 n d)).map TableRow.mnemonic = some "START.x<n>" := by
  obtain ⟨h8, h16, h24, h32⟩ := beq_legal_of_none h
  simp only [tableRowOf, opcodeTable_eq, List.find?, requestWord_meets_fields, requestWord_meets_op, h8, h16, h24, h32,
    Bool.and_false]
  exact ⟨rfl, rfl⟩

/-- BYTE and READ are found by `op`, whatever the `width` field. -/
theorem tableRowOf_byte_read (n : BitVec 8) (d : Word) :
    (tableRowOf (requestWord 0b10#2 n d)).map TableRow.mnemonic = some "BYTE" ∧
    (tableRowOf (requestWord 0b11#2 n d)).map TableRow.mnemonic = some "READ" := by
  simp only [tableRowOf, opcodeTable_eq, List.find?, requestWord_meets_fields, requestWord_meets_op]
  exact ⟨rfl, rfl⟩

/-- REV and START have the row of their operation, and that operation is well-formed, at every width. -/
theorem tableRowOf_rev_start (n : BitVec 8) (d : Word) :
    ((tableRowOf (requestWord 0b00#2 n d)).map TableRow.mnemonic = some (revInstr n d).mnemonic ∧
      (revInstr n d).wellFormed = true) ∧
    ((tableRowOf (requestWord 0b01#2 n d)).map TableRow.mnemonic = some (startInstr n d).mnemonic ∧
      (startInstr n d).wellFormed = true) := by
  obtain ⟨w, -, rfl⟩ | ⟨hnone, hlegal⟩ := widthOfField_cases n
  · rw [tableRowOf_requestWord 0b00#2, tableRowOf_requestWord 0b01#2]
    cases w <;> exact ⟨⟨rfl, rfl⟩, rfl, rfl⟩
  · obtain ⟨hrev, hstart⟩ := tableRowOf_of_none hnone d
    have hwf : (!legalWidthField n) = true := by rw [hlegal]; rfl
    rw [revInstr_of_none hnone, startInstr_of_none hnone]
    exact ⟨⟨hrev, hwf⟩, hstart, hwf⟩

/-- Settles O30: `op` selects the operation and the row, for REV and START with the `width` field. -/
theorem decodeAgreesWithOpcodeTable : Obligations.DecodeAgreesWithOpcodeTable := by
  intro w
  obtain ⟨op, n, d, rfl, -⟩ := eq_requestWord w
  obtain ⟨hrev, hstart⟩ := tableRowOf_rev_start n d
  obtain ⟨hbyte, hread⟩ := tableRowOf_byte_read n d
  obtain rfl | rfl | rfl | rfl := op_cases op
  · rw [decode_rev]
    exact hrev
  · rw [decode_start]
    exact hstart
  · rw [decode_byte]
    exact ⟨hbyte, rfl⟩
  · rw [decode_read]
    exact ⟨hread, rfl⟩

/-- Settles O27: nine closed words. -/
theorem specWordsDecode : Obligations.SpecWordsDecode := by
  unfold Obligations.SpecWordsDecode
  decide

end Sys2Proof.Machine
end

section
/-! What operations leave alone (10_state.md sections 8 and 10, 60_exceptions.md): the frame of each kind of operation,
and the failures and responses that follow from it. -/

open Sys2Proof.Laws Sys2Proof.Claims

namespace Sys2Proof.Machine

theorem exists_exec (i : Instr) (s : State) : ∃ t, exec i s = .next t := by
  cases i <;> exact ⟨_, rfl⟩

/-! The frame of each kind of operation. -/

/-- REV leaves the elements and answers status 0 (R105, R110). -/
theorem exec_of_isRev {i : Instr} {s t : State} (hi : isRev i = true) (h : exec i s = .next t) :
    SameElements s t ∧ ∃ r : Word, t.rsp = some (0#2 ++ r) := by
  obtain ⟨w, v, rfl, -⟩ | ⟨n, v, -, rfl⟩ | ⟨w, iv, -, hstart⟩ | ⟨n, iv, rfl, -⟩ | ⟨b, rfl, -⟩ | ⟨rfl, -⟩ := exec_cases h
  · exact ⟨⟨rfl, rfl, rfl, rfl⟩, _, rfl⟩
  · exact ⟨⟨rfl, rfl, rfl, rfl⟩, _, rfl⟩
  · obtain ⟨rfl, -⟩ | ⟨rfl, -⟩ | ⟨rfl, -⟩ | ⟨rfl, -⟩ := hstart <;> cases hi
  · cases hi
  · cases hi
  · cases hi

/-- Nothing but START writes RPOLY, MASK and STATUS; outside a transaction nothing but START writes ACC (R22 to R24,
R137). -/
theorem exec_of_not_isStart {i : Instr} {s t : State} (hi : isStart i = false) (h : exec i s = .next t) :
    t.rpoly = s.rpoly ∧ t.mask = s.mask ∧ t.status = s.status ∧ (s.status ≠ .ok → t.acc = s.acc) := by
  obtain ⟨w, v, rfl, -⟩ | ⟨n, v, -, rfl⟩ | ⟨w, iv, -, hstart⟩ | ⟨n, iv, rfl, -⟩ | ⟨b, -, rfl⟩ | ⟨-, rfl⟩ := exec_cases h
  · exact ⟨rfl, rfl, rfl, fun _ => rfl⟩
  · exact ⟨rfl, rfl, rfl, fun _ => rfl⟩
  · obtain ⟨rfl, -⟩ | ⟨rfl, -⟩ | ⟨rfl, -⟩ | ⟨rfl, -⟩ := hstart <;> cases hi
  · cases hi
  · obtain ⟨hok, e⟩ | ⟨-, e⟩ := byteOp_cases b s <;> rw [e]
    · exact ⟨rfl, rfl, rfl, fun hne => absurd hok hne⟩
    · exact ⟨rfl, rfl, rfl, fun _ => rfl⟩
  · exact ⟨rfl, rfl, rfl, fun _ => rfl⟩

/-- Nothing but REV at an illegal width draws a free value (log 3). -/
theorem exec_draws {i : Instr} {s t : State} (hi : ∀ n v, i ≠ .revX n v) (h : exec i s = .next t) :
    t.draws = s.draws := by
  obtain ⟨w, v, rfl, -⟩ | ⟨n, v, rfl, -⟩ | ⟨w, iv, rfl, -⟩ | ⟨n, iv, -, rfl⟩ | ⟨b, -, rfl⟩ | ⟨-, rfl⟩ := exec_cases h
  · rfl
  · exact absurd rfl (hi n v)
  · obtain ⟨-, e⟩ | ⟨-, e⟩ := startOp_cases w iv s <;> rw [e] <;> rfl
  · rfl
  · obtain ⟨-, e⟩ | ⟨-, e⟩ := byteOp_cases b s <;> rw [e] <;> rfl
  · rfl

/-- Settles O16: each clause is the frame of its kind of operation. -/
theorem accessTableFrame : Obligations.AccessTableFrame := by
  intro i s t h
  obtain ⟨hcfg, hinputs, -⟩ := exec_elements h
  refine ⟨hcfg, hinputs, ?_, ?_, fun hi => exec_draws hi h⟩
  · rintro (hrev | rfl)
    · exact (exec_of_isRev hrev h).1
    · cases h
      exact ⟨rfl, rfl, rfl, rfl⟩
  · rintro b rfl
    exact exec_of_not_isStart rfl h

/-- Settles O12: REV answers status 0, any other operation from the state it leaves. -/
theorem everyResponseIsOfTheStateLeft : Obligations.EveryResponseIsOfTheStateLeft := by
  intro i s t h
  refine ⟨fun hrev => (exec_of_isRev hrev h).2, fun hrev c hc => ?_⟩
  rw [exec_rsp_of_not_rev hrev h, code_eq_of_codeIs hc]
  rfl

/-! START. -/

theorem reverse_and_maskOf_arg (v : Word) (w : Width) : reverse (v &&& maskOf w) w = reverse v w := by
  apply BitVec.eq_of_getLsbD_eq
  intro j _
  rw [reverse_getLsbD, reverse_getLsbD, BitVec.getLsbD_and, maskOf_getLsbD]
  by_cases h : j < w.bits
  · have hmirror : w.bits - 1 - j < w.bits := by omega
    simp [hmirror]
  · simp [h]

/-- START at a legal width reads nothing of the old state but the reversal of its polynomial. -/
theorem startOp_sameAnswer_of_reverse {w : Width} {s u : State} (iv : Word)
    (hpoly : reverse (polyOf s.cfg w) w = reverse (polyOf u.cfg w) w) :
    SameAnswer (startOp w iv s) (startOp w iv u) := by
  cases h : initOutOfRange w iv with
  | true =>
    rw [startOp_of_fail h, startOp_of_fail h]
    exact ⟨⟨rfl, rfl, rfl, rfl⟩, rfl⟩
  | false =>
    rw [startOp_of_pass h, startOp_of_pass h, hpoly]
    exact ⟨⟨rfl, rfl, rfl, rfl⟩, rfl⟩

/-- Settles O8: the reversal of a polynomial drops its bits at and above the width. -/
theorem polynomialBitsAboveWidthHaveNoEffect : Obligations.PolynomialBitsAboveWidthHaveNoEffect := by
  intro n w iv s u t t' hfield hpoly h h'
  have hw := (widthOfField_eq_some_iff n w).mpr hfield
  obtain rfl : startOp w iv s = t := Host.Outcome.next.inj ((exec_startInstr_of_some hw iv s).symm.trans h)
  obtain rfl : startOp w iv u = t' := Host.Outcome.next.inj ((exec_startInstr_of_some hw iv u).symm.trans h')
  apply startOp_sameAnswer_of_reverse
  rw [← reverse_and_maskOf_arg, hpoly, reverse_and_maskOf_arg]


/-- START at a legal width fails on R122's test, with ERR_INIT, and opens a transaction otherwise. -/
theorem startOp_status (w : Width) (iv : Word) (s : State) :
    (startOp w iv s).status ≠ .idle ∧ (startOp w iv s).status ≠ .errWidth ∧
    ((startOp w iv s).status = .errInit ↔ maskOf w < iv) := by
  obtain ⟨hlt, e⟩ | ⟨hle, e⟩ := startOp_cases w iv s <;> rw [e]
  · exact ⟨nofun, nofun, fun _ => hlt, fun _ => rfl⟩
  · exact ⟨nofun, nofun, nofun, fun hlt => absurd hle (BitVec.not_le.mpr hlt)⟩

/-- Settles O9: START's status is that of its cause, and every other operation keeps the status. -/
theorem failuresAreRaisedByStartOnly : Obligations.FailuresAreRaisedByStartOnly := by
  intro i s t h
  refine ⟨fun hi => ?_, fun hi => ?_⟩
  · obtain ⟨-, -, hstatus, -⟩ := exec_of_not_isStart hi h
    exact hstatus
  · obtain ⟨w, v, -, hrev⟩ | ⟨n, v, rfl, -⟩ | ⟨w, iv, rfl, hstart⟩ | ⟨n, iv, rfl, rfl⟩ | ⟨b, rfl, -⟩ | ⟨rfl, -⟩ :=
      exec_cases h
    · obtain ⟨rfl, -⟩ | ⟨rfl, -⟩ | ⟨rfl, -⟩ | ⟨rfl, -⟩ := hrev <;> cases hi
    · cases hi
    · obtain ⟨hidle, hwidth, hinit⟩ := startOp_status w iv s
      obtain ⟨rfl, rfl⟩ | ⟨rfl, rfl⟩ | ⟨rfl, rfl⟩ | ⟨rfl, rfl⟩ := hstart
      · exact ⟨hidle, by simp [hwidth], by simp [hinit, maskOf]⟩
      · exact ⟨hidle, by simp [hwidth], by simp [hinit, maskOf]⟩
      · exact ⟨hidle, by simp [hwidth], by simp [hinit, maskOf]⟩
      · have hle : iv ≤ maskOf .w32 := Nat.le_of_lt_succ iv.isLt
        exact ⟨hidle, by simp [hwidth], by simp [hinit, hle]⟩
    · exact ⟨nofun, by simp [startIllegal_eq, raiseFailure_eq], by simp [startIllegal_eq, raiseFailure_eq]⟩
    · cases hi
    · cases hi

/-! Sequences of operations. -/

/-- The first operation of a sequence answers a next state, and the rest goes on from there. -/
theorem execAll_cons_inv {i : Instr} {q : List Instr} {s t : State} (h : execAll (i :: q) s = .next t) :
    ∃ m, exec i s = .next m ∧ execAll q m = .next t := by
  obtain ⟨m, hm⟩ := exists_exec i s
  exact ⟨m, hm, (execAll_cons hm).symm.trans h⟩

theorem sameElements_symm {s t : State} (h : SameElements s t) : SameElements t s := by
  obtain ⟨hacc, hrpoly, hmask, hstatus⟩ := h
  exact ⟨hacc.symm, hrpoly.symm, hmask.symm, hstatus.symm⟩

theorem sameElements_trans {s t u : State} (h : SameElements s t) (h' : SameElements t u) : SameElements s u := by
  obtain ⟨hacc, hrpoly, hmask, hstatus⟩ := h
  obtain ⟨hacc', hrpoly', hmask', hstatus'⟩ := h'
  exact ⟨hacc.trans hacc', hrpoly.trans hrpoly', hmask.trans hmask', hstatus.trans hstatus'⟩

/-- Settles O21: each operation of the sequence leaves the elements, so the next starts outside a transaction too. -/
theorem failurePersistsUntilStart : Obligations.FailurePersistsUntilStart := by
  intro q s t hne hq h
  induction q generalizing s with
  | nil =>
    cases h
    exact ⟨rfl, rfl, rfl, rfl⟩
  | cons i q ih =>
    obtain ⟨m, hm, hrest⟩ := execAll_cons_inv h
    obtain ⟨hi, hq⟩ := List.forall_mem_cons.mp hq
    obtain ⟨hrpoly, hmask, hstatus, hacc⟩ := exec_of_not_isStart hi hm
    have hfirst : SameElements m s := ⟨hacc hne, hrpoly, hmask, hstatus⟩
    exact sameElements_trans (sameElements_symm hfirst) (ih m (hstatus ▸ hne) hq hrest)

/-- An operation keeps two states of the same elements and configuration together. -/
theorem exec_sameElements {i : Instr} {s s' t t' : State} (hsame : SameElements s s') (hcfg : s.cfg = s'.cfg)
    (h : exec i s = .next t) (h' : exec i s' = .next t') : SameElements t t' := by
  cases i with
  | rev8 v => cases h; cases h'; exact hsame
  | rev16 v => cases h; cases h'; exact hsame
  | rev24 v => cases h; cases h'; exact hsame
  | rev32 v => cases h; cases h'; exact hsame
  | start8 iv => cases h; cases h'; exact (startOp_sameAnswer .w8 iv hcfg).1
  | start16 iv => cases h; cases h'; exact (startOp_sameAnswer .w16 iv hcfg).1
  | start24 iv => cases h; cases h'; exact (startOp_sameAnswer .w24 iv hcfg).1
  | start32 iv => cases h; cases h'; exact (startOp_sameAnswer .w32 iv hcfg).1
  | byte b => cases h; cases h'; exact (byteOp_sameAnswer b hsame).1
  | read => cases h; cases h'; exact hsame
  | revX n v => cases h; cases h'; exact hsame
  | startX n iv => cases h; cases h'; exact ⟨rfl, rfl, rfl, rfl⟩

/-- REV operations can be left out of a sequence, from two states of the same elements and configuration. -/
theorem execAll_filter_not_rev {q : List Instr} {s s' t u : State} (hsame : SameElements s s')
    (hcfg : s.cfg = s'.cfg) (h : execAll q s = .next t)
    (h' : execAll (q.filter fun i => !isRev i) s' = .next u) : SameElements t u := by
  induction q generalizing s s' with
  | nil => cases h; cases h'; exact hsame
  | cons i q ih =>
    obtain ⟨m, hm, hrest⟩ := execAll_cons_inv h
    obtain ⟨hmcfg, -⟩ := exec_elements hm
    cases hi : isRev i with
    | true =>
      rw [List.filter_cons_of_neg (by simp [hi])] at h'
      obtain ⟨hrev, -⟩ := exec_of_isRev hi hm
      exact ih (sameElements_trans (sameElements_symm hrev) hsame) (hmcfg.trans hcfg) hrest h'
    | false =>
      rw [List.filter_cons_of_pos (by simp [hi])] at h'
      obtain ⟨m', hm', hrest'⟩ := execAll_cons_inv h'
      obtain ⟨hmcfg', -⟩ := exec_elements hm'
      exact ih (exec_sameElements hsame hcfg hm hm') (hmcfg.trans (hcfg.trans hmcfg'.symm)) hrest hrest'

/-- Settles O20: the two runs start from the same state. -/
theorem revOperationsDoNotDisturbTheEngine : Obligations.RevOperationsDoNotDisturbTheEngine := by
  rintro q _ s t u rfl h h'
  exact execAll_filter_not_rev ⟨rfl, rfl, rfl, rfl⟩ rfl h h'

end Sys2Proof.Machine
end

section
/-! The channel (30_encoding.md section 1, 70_reset_and_hazards.md sections 1 and 3): one equation of `step` for each
kind of slot, and what the slot says of the state left. -/

open Sys2Proof.Laws Sys2Proof.Claims

namespace Sys2Proof.Machine

section
variable {s : State} {p : Pins} {rest : List Pins}

theorem step_of_no_slot (h : s.inputs = []) : step s = .next s.noResponse := by
  simp [step, fetch, h]

theorem step_of_reset (h : s.inputs = p :: rest) (hrst : p.rst = true) :
    step s = .next (resetElements (s.setInputs rest)).noResponse := by
  simp [step, fetch, h, hrst]

theorem step_of_request (h : s.inputs = p :: rest) (hrst : p.rst = false) (hvalid : p.reqValid = true) :
    step s = exec (decode p.req) (s.setInputs rest) := by
  simp [step, fetch, h, hrst, accepted, reqReady, hvalid]

theorem step_of_idle (h : s.inputs = p :: rest) (hrst : p.rst = false) (hvalid : p.reqValid = false) :
    step s = .next (s.setInputs rest).noResponse := by
  simp [step, fetch, h, hrst, accepted, hvalid]

end

/-- Settles O22: the equation of a reset slot, whatever is requested in it. -/
theorem resetEventWritesResetValues : Obligations.ResetEventWritesResetValues := by
  intro s p rest h hrst
  have hready (q : Pins) : reqReady q = !q.rst := rfl
  exact ⟨by rw [hready, hrst]; rfl, fun q hq => by rw [hready, hq]; rfl, step_of_reset h hrst⟩

/-- Settles O23: the equation of a slot whose request is accepted. -/
theorem stepRunsTheDecodedRequest : Obligations.StepRunsTheDecodedRequest :=
  fun _ _ _ h hrst hvalid => step_of_request h hrst hvalid

/-- Settles O24: the equations of a slot in which nothing is requested, and of no slot. -/
theorem idleSlotHoldsTheState : Obligations.IdleSlotHoldsTheState := by
  refine ⟨fun s h => step_of_no_slot h, fun s p rest h hrst hvalid => ⟨?_, step_of_idle h hrst hvalid⟩⟩
  rw [reqReady, hrst]
  rfl

/-- Settles O26: of the slots only a request runs an operation, and every operation answers a next state. -/
theorem stepAlwaysAnswersNext : Obligations.StepAlwaysAnswersNext := by
  intro s
  cases h : s.inputs with
  | nil => exact ⟨_, step_of_no_slot h⟩
  | cons p rest =>
    cases hrst : p.rst with
    | true => exact ⟨_, step_of_reset h hrst⟩
    | false =>
      cases hvalid : p.reqValid with
      | true =>
        obtain ⟨t, ht⟩ := exists_exec (decode p.req) (s.setInputs rest)
        exact ⟨t, (step_of_request h hrst hvalid).trans ht⟩
      | false => exact ⟨_, step_of_idle h hrst hvalid⟩

/-! The response. -/

/-- Every operation answers (R80). -/
theorem exec_exists_rsp {i : Instr} {s t : State} (h : exec i s = .next t) : ∃ r, t.rsp = some r := by
  cases hi : isRev i with
  | true =>
    obtain ⟨-, r, hr⟩ := exec_of_isRev hi h
    exact ⟨_, hr⟩
  | false => exact ⟨_, exec_rsp_of_not_rev hi h⟩

/-- Settles O25: a request is answered by its operation, and the other slots drop the response. -/
theorem responseExactlyToAcceptedRequest : Obligations.ResponseExactlyToAcceptedRequest := by
  intro s t p rest hs h
  obtain ⟨hnil, -⟩ | ⟨p', rest', hi, hrst, rfl⟩ | ⟨p', rest', hi, hrst, hvalid, hexec⟩ |
    ⟨p', rest', hi, hrst, hvalid, rfl⟩ := step_cases h
  · cases hs.symm.trans hnil
  · cases hs.symm.trans hi
    exact ⟨rfl, by simp [reqReady, hrst]⟩
  · cases hs.symm.trans hi
    obtain ⟨-, hinputs, -⟩ := exec_elements hexec
    exact ⟨hinputs, fun _ => ⟨hvalid, by simp [reqReady, hrst]⟩, fun _ => exec_exists_rsp hexec⟩
  · cases hs.symm.trans hi
    exact ⟨rfl, by simp [hvalid]⟩

/-! The elements that START and reset alone write. -/

theorem revInstr_not_isStart (n : BitVec 8) (v : Word) : isStart (revInstr n v) = false := by
  unfold revInstr
  cases widthOfField n with
  | none => rfl
  | some w => cases w <;> rfl

/-- A word of another `op` does not ask for START (R72). -/
theorem decode_not_isStart {w : ReqWord} (h : w.extractLsb' 40 2 ≠ 1#2) : isStart (decode w) = false := by
  obtain ⟨op, n, d, rfl, hop⟩ := eq_requestWord w
  rw [hop] at h
  obtain rfl | rfl | rfl | rfl := op_cases op
  · rw [decode_rev, revInstr_not_isStart]
  · exact absurd rfl h
  · rw [decode_byte, isStart]
  · rw [decode_read, isStart]

/-- A slot with neither reset nor an accepted START leaves RPOLY, MASK and STATUS (R22 to R24). -/
theorem step_of_not_resetOrStart {s t : State} (h : step s = .next t)
    (hslot : ∀ p rest, s.inputs = p :: rest → ¬ ResetOrStart p) :
    t.rpoly = s.rpoly ∧ t.mask = s.mask ∧ t.status = s.status := by
  obtain ⟨-, rfl⟩ | ⟨p, rest, hi, hrst, -⟩ | ⟨p, rest, hi, -, hvalid, hexec⟩ | ⟨p, rest, -, -, -, rfl⟩ := step_cases h
  · exact ⟨rfl, rfl, rfl⟩
  · exact absurd (.inl hrst) (hslot p rest hi)
  · have hop : p.req.extractLsb' 40 2 ≠ 1#2 := fun hop => hslot p rest hi (.inr ⟨hvalid, hop⟩)
    obtain ⟨hrpoly, hmask, hstatus, -⟩ := exec_of_not_isStart (decode_not_isStart hop) hexec
    exact ⟨hrpoly, hmask, hstatus⟩
  · exact ⟨rfl, rfl, rfl⟩

/-- Settles O17: with no such slot STATUS stays. -/
theorem onlyStartAndResetWriteStatus : Obligations.OnlyStartAndResetWriteStatus := by
  intro s t h hne
  by_contra hno
  obtain ⟨-, -, hstatus⟩ := step_of_not_resetOrStart h fun p rest hi hp => hno ⟨p, rest, hi, hp⟩
  exact hne hstatus

/-- Settles O18: with no such slot RPOLY and MASK stay. -/
theorem polynomialAndMaskConstantInTransaction : Obligations.PolynomialAndMaskConstantInTransaction := by
  intro s t h hslot
  obtain ⟨hrpoly, hmask, -⟩ := step_of_not_resetOrStart h hslot
  exact ⟨hrpoly, hmask⟩

end Sys2Proof.Machine
end

section
/-! The laws of the Bit Reverser (40_bit_reverser.md section 4) and of the feedback loop (41_crc_engine.md section 6,
95_test_vectors.md section 3, 70_reset_and_hazards.md section 3). -/

namespace Sys2Proof.Machine

/-! The Bit Reverser. -/

theorem reverse_reverse (v : Word) (w : Width) : reverse (reverse v w) w = v &&& maskOf w := by
  apply BitVec.eq_of_getLsbD_eq
  intro j _
  rw [reverse_getLsbD, reverse_getLsbD, BitVec.getLsbD_and, maskOf_getLsbD]
  by_cases h : j < w.bits
  · have hmirror : w.bits - 1 - j < w.bits := by omega
    have hback : w.bits - 1 - (w.bits - 1 - j) = j := by omega
    simp [h, hmirror, hback]
  · simp [h]

theorem reverse_w32 (v : Word) : reverse v .w32 = rev32 v := BitVec.ushiftRight_zero _

/-- The reversal commutes with an operator on words that works bit by bit and keeps 0. -/
theorem reverse_bitwise {op : Word → Word → Word} {f : Bool → Bool → Bool}
    (hop : ∀ a b j, (op a b).getLsbD j = f (a.getLsbD j) (b.getLsbD j)) (hf : f false false = false) (v u : Word)
    (w : Width) : reverse (op v u) w = op (reverse v w) (reverse u w) := by
  apply BitVec.eq_of_getLsbD_eq
  intro j _
  rw [hop, reverse_getLsbD, reverse_getLsbD, reverse_getLsbD, hop]
  by_cases h : j < w.bits
  · simp [h]
  · simp [h, hf]

theorem reverse_zero (w : Width) : reverse 0#32 w = 0#32 := by
  apply BitVec.eq_of_getLsbD_eq
  intro j _
  simp [reverse_getLsbD]

theorem reverse_maskOf (w : Width) : reverse (maskOf w) w = maskOf w := by
  apply BitVec.eq_of_getLsbD_eq
  intro j _
  rw [reverse_getLsbD, maskOf_getLsbD, maskOf_getLsbD]
  by_cases h : j < w.bits
  · have hmirror : w.bits - 1 - j < w.bits := by omega
    simp [hmirror]
  · simp [h]

/-- Settles O3: law by law; the involution is the reversal twice at width 32, whose mask keeps every value. -/
theorem bitReverserLaws : Obligations.BitReverserLaws := by
  refine ⟨fun v => ?_, reverse_reverse, fun w => ⟨reverse_zero w, reverse_maskOf w⟩, fun u v w => ⟨?_, ?_, ?_⟩,
    reverse_w32⟩
  · rw [← reverse_w32, ← reverse_w32, reverse_reverse]
    exact BitVec.and_allOnes
  · exact reverse_bitwise (fun _ _ _ => BitVec.getLsbD_xor) rfl v u w
  · exact reverse_bitwise (fun _ _ _ => BitVec.getLsbD_and) rfl v u w
  · exact reverse_bitwise (fun _ _ _ => BitVec.getLsbD_or) rfl v u w

/-- Settles O4: within the width the only bit set is the mirror of `j`; otherwise `j` is no mirror of any bit. -/
theorem reverseOfOneBit : Obligations.ReverseOfOneBit := by
  intro w j hj
  have hw : w.bits ≤ 32 := by cases w <;> decide
  apply BitVec.eq_of_getLsbD_eq
  intro i hi
  rw [reverse_getLsbD, one_shiftLeft_getLsbD]
  split
  · have hmirror : (i < w.bits ∧ w.bits - 1 - i < 32 ∧ w.bits - 1 - i = j) ↔ (i < 32 ∧ i = w.bits - 1 - j) := by omega
    rw [one_shiftLeft_getLsbD, Bool.eq_iff_iff]
    simpa using hmirror
  · have hmirror : i < w.bits → w.bits - 1 - i < 32 → w.bits - 1 - i ≠ j := by omega
    simpa using hmirror

/-! One feedback iteration and one byte. -/

/-- An iteration is the shift, with the polynomial folded in if bit 0 is set (R127). -/
theorem crcBit_eq (a r : Word) : crcBit a r = (a >>> 1) ^^^ (if a.getLsbD 0 then r else 0#32) := by
  unfold crcBit
  split
  · rfl
  · exact (BitVec.xor_zero).symm

theorem ite_xor (x y : Bool) (r : Word) :
    (if (x ^^ y) = true then r else 0#32) = (if x = true then r else 0#32) ^^^ (if y = true then r else 0#32) := by
  cases x <;> cases y <;> simp

theorem crcBit_xor (a b r : Word) : crcBit (a ^^^ b) r = crcBit a r ^^^ crcBit b r := by
  rw [crcBit_eq, crcBit_eq, crcBit_eq, BitVec.ushiftRight_xor_distrib, BitVec.getLsbD_xor, ite_xor]
  ac_rfl

theorem crcIterate_xor (r : Word) (n : Nat) (a b : Word) :
    crcIterate r n (a ^^^ b) = crcIterate r n a ^^^ crcIterate r n b := by
  induction n generalizing a b with
  | zero => rfl
  | succ n ih => rw [crcIterate, crcBit_xor, ih]; rfl

theorem zext32_xor (b c : Byte) : zext32 (b ^^^ c) = zext32 b ^^^ zext32 c := BitVec.setWidth_xor

/-- Settles O13: the byte's extension and each iteration are linear. -/
theorem crcByteIsLinear : Obligations.CrcByteIsLinear := by
  intro a a' rpoly b b'
  have hregroup : a ^^^ a' ^^^ (zext32 b ^^^ zext32 b') = (a ^^^ zext32 b) ^^^ (a' ^^^ zext32 b') := by ac_rfl
  rw [crcByte, zext32_xor, hregroup, crcIterate_xor]
  rfl

/-- A single bit above bit 0 moves down by one. -/
theorem crcBit_one_shiftLeft_succ (r : Word) {k : Nat} (hk : k + 1 < 32) :
    crcBit (1#32 <<< (k + 1)) r = 1#32 <<< k := by
  have hclear : (1#32 <<< (k + 1)).getLsbD 0 = false := by simp
  rw [crcBit_eq, hclear, if_neg Bool.false_ne_true, BitVec.xor_zero]
  apply BitVec.eq_of_getLsbD_eq
  intro j hj
  rw [BitVec.getLsbD_ushiftRight, one_shiftLeft_getLsbD, one_shiftLeft_getLsbD, Bool.eq_iff_iff]
  simp
  omega

/-- A single bit moves down to bit 0 untouched, and the iteration after that leaves the polynomial alone. -/
theorem crcIterate_one_bit (r : Word) {k : Nat} (hk : k < 32) : crcIterate r (k + 1) (1#32 <<< k) = r := by
  induction k with
  | zero => simp [crcIterate, crcBit_eq]
  | succ k ih =>
    rw [crcIterate, crcBit_one_shiftLeft_succ r hk]
    exact ih (by omega)

/-- Settles O14: 0x80 is the single bit 7. -/
theorem crcByteOfTopBitIsThePolynomial : Obligations.CrcByteOfTopBitIsThePolynomial := by
  intro rpoly
  have hbit : (0#32 : Word) ^^^ zext32 0x80#8 = 1#32 <<< 7 := by decide
  rw [crcByte, hbit, crcIterate_one_bit rpoly (by decide)]

theorem crcIterate_add (r : Word) (m n : Nat) (a : Word) :
    crcIterate r (m + n) a = crcIterate r n (crcIterate r m a) := by
  induction m generalizing a with
  | zero => rw [Nat.zero_add]; rfl
  | succ m ih => rw [Nat.succ_add]; exact ih _

/-- Cycles of iterations are their product of iterations. -/
theorem crcCycles_eq (r : Word) (perCycle cycles : Nat) (a : Word) :
    crcCycles r perCycle cycles a = crcIterate r (perCycle * cycles) a := by
  induction cycles generalizing a with
  | zero => rfl
  | succ cycles ih => rw [crcCycles, ih, ← crcIterate_add, Nat.mul_succ, Nat.add_comm]

/-- Settles O15: every grouping makes eight iterations. -/
theorem iterationsPerCycleCannotBeSeen : Obligations.IterationsPerCycleCannotBeSeen := by
  intro u acc rpoly b
  have height : iterationsOf u * (8 / iterationsOf u) = 8 := by cases u <;> rfl
  rw [crcByteUnrolled, crcCycles_eq, height]
  rfl

end Sys2Proof.Machine
end

section
/-! COMPUTE as a run of its requests (30_encoding.md R83), its chaining (41_crc_engine.md section 6), and its refusal
(20_memory.md R57). -/

open Sys2Proof.Laws Sys2Proof.Claims

namespace Sys2Proof.Machine

/-! The refusal. -/

theorem readBuffer_eq_none {memRead : Nat → Option Byte} {buf n i : Nat} (hi : i < n)
    (h : memRead (buf + i) = none) : readBuffer memRead buf n = none := by
  induction n generalizing buf i with
  | zero => exact absurd hi (Nat.not_lt_zero i)
  | succ n ih =>
    cases i with
    | zero =>
      rw [Nat.add_zero] at h
      simp only [readBuffer, h]
    | succ i =>
      have hrest : readBuffer memRead (buf + 1) n = none :=
        ih (Nat.lt_of_succ_lt_succ hi) (by rw [← h]; congr 1; omega)
      cases hb : memRead buf <;> simp only [readBuffer, hb, hrest]

/-- Settles O32: one unreadable byte makes the whole buffer unreadable. -/
theorem computeRefusesUnreadableBuffer : Obligations.ComputeRefusesUnreadableBuffer := by
  rintro memRead iv n buf length s ⟨i, hi, hnone⟩
  rw [compute, readBuffer_eq_none hi hnone]

/-! What COMPUTE runs. -/

theorem andThen_next (s : State) (f : State → Host.Outcome State Fault Refusal) : andThen (.next s) f = f s := rfl

theorem exists_execAll (q : List Instr) (s : State) : ∃ t, execAll q s = .next t := by
  induction q generalizing s with
  | nil => exact ⟨s, rfl⟩
  | cons i q ih =>
    obtain ⟨m, hm⟩ := exists_exec i s
    rw [execAll_cons hm]
    exact ih m

theorem execAll_append (q q' : List Instr) (s : State) : execAll (q ++ q') s = andThen (execAll q s) (execAll q') := by
  induction q generalizing s with
  | nil => rfl
  | cons i q ih =>
    obtain ⟨m, hm⟩ := exists_exec i s
    rw [List.cons_append, execAll_cons hm, execAll_cons hm, ih]

theorem execAll_cfg {q : List Instr} {s t : State} (h : execAll q s = .next t) : t.cfg = s.cfg := by
  induction q generalizing s with
  | nil => cases h; rfl
  | cons i q ih =>
    obtain ⟨m, hm, hrest⟩ := execAll_cons_inv h
    obtain ⟨hcfg, -⟩ := exec_elements hm
    exact (ih hrest).trans hcfg

/-- A COMPUTE that answers read its buffer and ran START, and unless that failed the bytes and READ (R138). -/
theorem compute_cases {memRead : Nat → Option Byte} {iv : Word} {n : BitVec 8} {buf : Nat} {length : Word}
    {s t : State} (h : compute memRead iv n buf length s = .next t) :
    ∃ (bytes : List Byte) (m : State), readBuffer memRead buf length.toNat = some bytes ∧
      exec (startInstr n iv) s = .next m ∧
      ((m.status ≠ .ok ∧ t = m) ∨ (m.status = .ok ∧ execAll (bytes.map Instr.byte ++ [Instr.read]) m = .next t)) := by
  obtain ⟨bytes, hread⟩ := exists_readBuffer_of_compute h
  obtain ⟨m, hm⟩ := exists_exec (startInstr n iv) s
  refine ⟨bytes, m, hread, hm, ?_⟩
  by_cases hok : m.status = .ok
  · obtain ⟨v, hv⟩ := exists_execAll (bytes.map .byte) m
    simp only [compute, hread, hm, andThen_next, if_pos hok, hv] at h
    refine .inr ⟨hok, ?_⟩
    rw [execAll_append, hv, andThen_next, execAll_cons h, execAll]
  · exact .inl ⟨hok, Host.Outcome.next.inj (h.symm.trans (compute_of_start_failed hread hm hok))⟩

theorem compute_cfg {memRead : Nat → Option Byte} {iv : Word} {n : BitVec 8} {buf : Nat} {length : Word}
    {s t : State} (h : compute memRead iv n buf length s = .next t) : t.cfg = s.cfg := by
  obtain ⟨bytes, m, -, hm, ⟨-, rfl⟩ | ⟨-, hrun⟩⟩ := compute_cases h
  · exact (exec_elements hm).1
  · exact (execAll_cfg hrun).trans (exec_elements hm).1

/-! Chaining. -/

theorem crcBytes_and_maskOf {w : Width} {a r : Word} (ha : a &&& maskOf w = a) (hr : r &&& maskOf w = r)
    (bytes : List Byte) : crcBytes a r bytes &&& maskOf w = crcBytes a r bytes := by
  induction bytes generalizing a with
  | nil => exact ha
  | cons b rest ih => exact ih (crcByte_and_maskOf ha hr b)

/-- The answer of a COMPUTE at a legal width and an initial value within it: the CRC itself, which the mask keeps. -/
theorem compute_rsp_of_le {memRead : Nat → Option Byte} {iv : Word} {n : BitVec 8} {w : Width} {buf : Nat}
    {length : Word} {bytes : List Byte} {s t : State} (hread : readBuffer memRead buf length.toNat = some bytes)
    (hw : widthOfField n = some w) (hle : iv ≤ maskOf w) (h : compute memRead iv n buf length s = .next t) :
    t.rsp = some (0#2 ++ crcBytes iv (reverse (polyOf s.cfg w) w) bytes) := by
  obtain ⟨t', ht', hrsp⟩ := compute_of_le hread hw hle
  obtain rfl : t' = t := Host.Outcome.next.inj (ht'.symm.trans h)
  have hiv := and_maskOf_of_le hle
  rw [hrsp, hiv, crcBytes_and_maskOf hiv (reverse_and_maskOf _ w)]

/-- Settles O37: the first piece's result is the accumulator the second piece starts from, and the configuration is the
same. -/
theorem chainingAcrossTwoTransactions : Obligations.ChainingAcrossTwoTransactions := by
  intro memRead iv r n w buf k m s t u v hfield hlength hle ht hu hr hv
  have hw := (widthOfField_eq_some_iff n w).mpr hfield
  have hsum : (k + m).toNat = k.toNat + m.toNat := by rw [BitVec.toNat_add, Nat.mod_eq_of_lt hlength]
  obtain ⟨bytes, hread⟩ := exists_readBuffer_of_compute ht
  obtain ⟨xs, ys, rfl, hxs, hys⟩ := readBuffer_add (hsum ▸ hread)
  have hcrc : r = crcBytes iv (reverse (polyOf s.cfg w) w) xs := by
    have hsame := Option.some.inj (hr.symm.trans (compute_rsp_of_le hxs hw hle hu))
    exact (BitVec.append_right_inj _).mp hsame
  have hrle : r ≤ maskOf w := by
    rw [hcrc, ← crcBytes_and_maskOf (and_maskOf_of_le hle) (reverse_and_maskOf _ w)]
    exact and_maskOf_le w _
  rw [compute_rsp_of_le hys hw hrle hv, compute_rsp_of_le hread hw hle ht, compute_cfg hu, crcBytes_append, hcrc]

/-! The request stream. -/

theorem startOp_setInputs (w : Width) (iv : Word) (s : State) (q : List Pins) :
    startOp w iv (s.setInputs q) = (startOp w iv s).setInputs q := by
  cases h : initOutOfRange w iv with
  | true => rw [startOp_of_fail h, startOp_of_fail h]; rfl
  | false => rw [startOp_of_pass h, startOp_of_pass h]; rfl

theorem byteOp_setInputs (b : Byte) (s : State) (q : List Pins) :
    byteOp b (s.setInputs q) = (byteOp b s).setInputs q := by
  by_cases h : s.status = .ok
  · rw [byteOp_of_ok h, byteOp_of_ok (s := s.setInputs q) h]; rfl
  · rw [byteOp_of_not_ok h, byteOp_of_not_ok (s := s.setInputs q) h]; rfl

/-- An operation does not look at the slots to come. -/
theorem exec_setInputs {i : Instr} {s t : State} (h : exec i s = .next t) (q : List Pins) :
    exec i (s.setInputs q) = .next (t.setInputs q) := by
  cases i with
  | rev8 v => cases h; rfl
  | rev16 v => cases h; rfl
  | rev24 v => cases h; rfl
  | rev32 v => cases h; rfl
  | start8 iv => cases h; exact congrArg _ (startOp_setInputs .w8 iv s q)
  | start16 iv => cases h; exact congrArg _ (startOp_setInputs .w16 iv s q)
  | start24 iv => cases h; exact congrArg _ (startOp_setInputs .w24 iv s q)
  | start32 iv => cases h; exact congrArg _ (startOp_setInputs .w32 iv s q)
  | byte b => cases h; exact congrArg _ (byteOp_setInputs b s q)
  | read => cases h; rfl
  | revX n v => cases h; rfl
  | startX n iv => cases h; rfl

/-- Requests taken one a step run their operations, with the inputs behind them left. -/
theorem run_requests {ws : List ReqWord} {s t : State} (h : execAll (ws.map decode) s = .next t) (rest : List Pins) :
    Host.Core.run Sys2Proof.core ws.length (Requesting s ws rest) = .next (t.setInputs rest) := by
  induction ws generalizing s with
  | nil => cases h; rfl
  | cons w ws ih =>
    obtain ⟨m, hm, hrest⟩ := execAll_cons_inv h
    have hstep : step (Requesting s (w :: ws) rest) = .next (Requesting m ws rest) :=
      (step_of_request (s := Requesting s (w :: ws) rest) (p := Pins.request w) rfl rfl rfl).trans
        (exec_setInputs hm (ws.map Pins.request ++ rest))
    rw [List.length_cons, core_run_step hstep]
    exact ih hrest

theorem computeRequests_decode (n : BitVec 8) (iv : Word) (bytes : List Byte) :
    (computeRequests n iv bytes).map decode = startInstr n iv :: bytes.map Instr.byte ++ [Instr.read] := by
  have hbyte (b : Byte) : decode (encode (.byte b)) = .byte b := decodeOfEncode (.byte b) rfl
  have hread : decode (encode .read) = .read := decodeOfEncode .read rfl
  simp [computeRequests, decode_start, hbyte, hread]

theorem computeRequests_length (n : BitVec 8) (iv : Word) (bytes : List Byte) :
    (computeRequests n iv bytes).length = bytes.length + 2 := by
  simp [computeRequests]

theorem startInstr_not_isRev (n : BitVec 8) (iv : Word) : isRev (startInstr n iv) = false := by
  unfold startInstr
  cases widthOfField n with
  | none => rfl
  | some w => cases w <;> rfl

/-- After a failed START the bytes change nothing, and READ gives START's response again (R137, R139). -/
theorem execAll_bytes_read_of_not_ok (bytes : List Byte) {s : State} (hne : s.status ≠ .ok)
    (hrsp : s.rsp = some (responseWord s.status s.out)) :
    ∃ u, execAll (bytes.map Instr.byte ++ [Instr.read]) s = .next u ∧ SameAnswer u s := by
  obtain ⟨v, hv⟩ := exists_execAll (bytes.map .byte) s
  have hsame : SameElements s v := failurePersistsUntilStart _ s v hne (by simp [isStart]) hv
  refine ⟨v.respondOut, by rw [execAll_append, hv]; rfl, sameElements_symm hsame, ?_⟩
  rw [hrsp]
  exact (respondOut_sameAnswer hsame).2.symm

/-- The operations COMPUTE stands for leave its elements and response, also where START fails and COMPUTE ends there. -/
theorem execAll_of_compute {memRead : Nat → Option Byte} {iv : Word} {n : BitVec 8} {buf : Nat} {length : Word}
    {bytes : List Byte} {s t : State} (hread : readBuffer memRead buf length.toNat = some bytes)
    (h : compute memRead iv n buf length s = .next t) :
    ∃ u, execAll (startInstr n iv :: bytes.map Instr.byte ++ [Instr.read]) s = .next u ∧ SameAnswer u t := by
  obtain ⟨bytes', m, hread', hm, hrest⟩ := compute_cases h
  obtain rfl : bytes' = bytes := Option.some.inj (hread'.symm.trans hread)
  rw [List.cons_append, execAll_cons hm]
  obtain ⟨hne, rfl⟩ | ⟨-, hrun⟩ := hrest
  · exact execAll_bytes_read_of_not_ok bytes' hne (exec_rsp_of_not_rev (startInstr_not_isRev n iv) hm)
  · exact ⟨t, hrun, ⟨rfl, rfl, rfl, rfl⟩, rfl⟩

/-- Settles O35: the requests run their operations, and those end as COMPUTE does. -/
theorem requestStreamComputes : Obligations.RequestStreamComputes := by
  intro memRead iv n buf length bytes s t rest hbuf h
  obtain ⟨u, hu, helements, hrsp⟩ := execAll_of_compute (readBuffer_of_bufferIs hbuf) h
  rw [← computeRequests_decode] at hu
  have hrun := run_requests hu rest
  rw [computeRequests_length] at hrun
  exact ⟨u.setInputs rest, hrun, helements, hrsp, rfl⟩

end Sys2Proof.Machine
end
